-- ==== Sys2Proof/Word.lean ====
section
/-! DEFINITION. The words of the block: the widths of rules R7, R8 and R63 (00_scope.md, 30_encoding.md). -/

namespace Sys2Proof

/-- One command word, 128 bits (rule R63). -/
abbrev CmdWord := BitVec 128

/-- The Tuning Word, 32 bits (rule R7). -/
abbrev TuningWord := BitVec 32

/-- The Phase Word, 5 bits, in units of 11.25 degrees (rule R7). -/
abbrev PhaseWord := BitVec 5

end Sys2Proof
end

