-- ==== Sys2Proof/Syntax.lean ====
section
/-! DEFINITION. The five commands of the block (rule R65) with the operands their decoding gives them (rule R71), and
what a command word can be: one command, or an illegal word. -/

namespace Sys2Proof

/-- The five operations, in the order of the opcode map (rule R65). -/
inductive Op where
  | transmitBit
  | program
  | powerDown
  | reset
  | init
  deriving DecidableEq, Repr

/-- One command with its operands (rule R71), one constructor per row of the opcode table. A field an operation does
not read is no part of it (rule R66). -/
inductive Instr where
  /-- TRANSMIT_BIT b (rule R101). -/
  | transmitBit (b : Bool)
  /-- PROGRAM: `fRaw` is F_raw, the frequency in units of 2^-32 Hz (rule R68); `pRaw` is P_raw, the phase in units of
  2^-16 degree (rule R69). Both are the integers the rules compute with. -/
  | program (fRaw pRaw : Int)
  /-- POWER_DOWN (rule R105). -/
  | powerDown
  /-- RESET (rule R108), the command; not the block's own reset input (rule R142). -/
  | reset
  /-- INIT (rule R111). -/
  | init
  deriving DecidableEq, Repr

/-- The operation of a command. -/
def Instr.op : Instr → Op
  | .transmitBit _ => .transmitBit
  | .program _ _ => .program
  | .powerDown => .powerDown
  | .reset => .reset
  | .init => .init

/-- Why a word is illegal (rule R67). The block records neither (rule R127). -/
inductive IllegalCause where
  /-- RSV is not zero. -/
  | reservedBits
  /-- OP is 0x0 or 0x6 to 0xF. -/
  | reservedOp
  deriving DecidableEq, Repr

/-- The outcome of decoding one word; there is no other (rule R71). -/
inductive Decoded where
  | command (i : Instr)
  | illegal (why : IllegalCause)
  deriving DecidableEq, Repr

end Sys2Proof
end

