-- ==== Sys2Proof/WellFormed.lean ====
section
/-! DEFINITION. Which instructions have a command word: PROGRAM's operands lie in the ranges of rules R68 and R69. -/

namespace Sys2Proof

/-- F_raw is in [-2^63, 2^63), the range of the FREQ field (rule R68). -/
abbrev FreqInRange (fRaw : Int) : Prop := -0x8000000000000000 ≤ fRaw ∧ fRaw < 0x8000000000000000

/-- P_raw is in [-2^31, 2^31), the range of the PHASE field (rule R69). -/
abbrev PhaseInRange (pRaw : Int) : Prop := -0x80000000 ≤ pRaw ∧ pRaw < 0x80000000

/-- The instruction can be written as a command word. -/
def Instr.wellFormed : Instr → Bool
  | .transmitBit _ => true
  | .program fRaw pRaw => decide (FreqInRange fRaw) && decide (PhaseInRange pRaw)
  | .powerDown => true
  | .reset => true
  | .init => true

end Sys2Proof
end

