-- ==== Sys2Proof/Decode.lean ====
section
/-! DEFINITION. The input encoding CMD128 (30_encoding.md): the fields of a command word, the decoder, which is total,
and the encoder of a well-formed instruction. -/

namespace Sys2Proof

/-- OP = word[3:0] (rule R63). -/
def wordOp (w : CmdWord) : BitVec 4 := w.extractLsb' 0 4

/-- BIT = word[4] (rules R63, R70). -/
def wordBit (w : CmdWord) : Bool := w.getLsbD 4

/-- RSV = word[31:5] (rule R63). -/
def wordRsv (w : CmdWord) : BitVec 27 := w.extractLsb' 5 27

/-- PHASE = word[63:32] (rule R63). -/
def wordPhase (w : CmdWord) : BitVec 32 := w.extractLsb' 32 32

/-- FREQ = word[127:64] (rule R63). -/
def wordFreq (w : CmdWord) : BitVec 64 := w.extractLsb' 64 64

/-- The opcode map (rule R65): the OP value of an operation. -/
def opCode : Op → BitVec 4
  | .transmitBit => 0x1
  | .program => 0x2
  | .powerDown => 0x3
  | .reset => 0x4
  | .init => 0x5

/-- The opcode map read the other way (rule R65): 0x0 and 0x6 to 0xF name no operation. -/
def opOfCode (c : BitVec 4) : Option Op :=
  if c = 0x1 then some .transmitBit
  else if c = 0x2 then some .program
  else if c = 0x3 then some .powerDown
  else if c = 0x4 then some .reset
  else if c = 0x5 then some .init
  else none

/-- The command of operation `op` with the operands `w` gives it: each operation reads its own fields only (rules R66,
R68, R69, R70, R71). -/
def operandsOf (op : Op) (w : CmdWord) : Instr :=
  match op with
  | .transmitBit => .transmitBit (wordBit w)
  | .program => .program (wordFreq w).toInt (wordPhase w).toInt
  | .powerDown => .powerDown
  | .reset => .reset
  | .init => .init

/-- Decoding at acceptance (rule R71): every word is illegal or exactly one command. -/
def decode (w : CmdWord) : Decoded :=
  if wordRsv w ≠ 0 then .illegal .reservedBits
  else
    match opOfCode (wordOp w) with
    | none => .illegal .reservedOp
    | some op => .command (operandsOf op w)

/-- A command word put together from its five fields (rule R63). -/
def packWord (freq : BitVec 64) (phase : BitVec 32) (rsv : BitVec 27) (bit : Bool) (op : BitVec 4) : CmdWord :=
  ((((freq ++ phase : BitVec 96) ++ rsv : BitVec 123) ++ BitVec.ofBool bit : BitVec 124) ++ op : BitVec 128)

/-- The word of a well-formed instruction, with every field it does not use zero, as the assembler writes it (rules R63,
R65, R83). -/
def encode (i : Instr) : CmdWord :=
  match i with
  | .transmitBit b => packWord 0 0 0 b (opCode .transmitBit)
  | .program fRaw pRaw => packWord (BitVec.ofInt 64 fRaw) (BitVec.ofInt 32 pRaw) 0 false (opCode .program)
  | .powerDown => packWord 0 0 0 false (opCode .powerDown)
  | .reset => packWord 0 0 0 false (opCode .reset)
  | .init => packWord 0 0 0 false (opCode .init)

/-- The instruction the decoder reads from a table row's word of `nbits` bits, the bits above `nbits` zero (rule R64:
every command is exactly 128 bits, so a longer word is none). -/
def decodeTableWord (nbits w : Nat) : Option Instr :=
  if nbits ≤ 128 then
    match decode (BitVec.ofNat 128 (w % 2 ^ nbits)) with
    | .command i => some i
    | .illegal _ => none
  else none

end Sys2Proof
end

