-- ==== Sys2Proof/Config.lean ====
section
/-! DEFINITION. The two open parameters of the block, fixed when it is built (rules R9, R10, R34): no value is given,
so nothing can be proved of either but that it is at least 1 (log entry 1). -/

namespace Sys2Proof

/-- Parameter REF_CLK_HZ, a positive integer (rule R9). It has no body: every value is admitted. -/
opaque Config.refClk : ℕ+

/-- Parameter EVENT_TICKS, an integer at least 1 (rule R10). It has no body: every value is admitted. -/
opaque Config.eventHold : ℕ+

/-- REF_CLK_HZ as a number of hertz (rule R9). -/
def Config.refClkHz : Nat := Config.refClk

/-- EVENT_TICKS as a number of block-clock ticks (rule R10). -/
def Config.eventTicks : Nat := Config.eventHold

end Sys2Proof
end

