-- ==== Sys2Proof/Machine/State.lean ====
section
/-! DEFINITION. The state of the block: rule R37's table and rule R38's record at the tick level, with the reference
datapath of rule R32; the reasons a step can stop; and the state after block reset. -/

namespace Sys2Proof.Machine

/-- The four output lines (rule R18). -/
inductive Line where
  | clock
  | data
  | strobe
  | reset
  deriving DecidableEq, Repr

/-- What a line holds (rule R20): low is 0, high is 1, unknown is the draw before the line's first write (log entry 4). -/
inductive Level where
  | low
  | high
  | unknown
  deriving DecidableEq, Repr

/-- The four 1-bit output registers (rule R18). -/
structure Lines where
  clock : Level
  data : Level
  strobe : Level
  reset : Level
  deriving DecidableEq, Repr

/-- One write of a line, `level` true for 1 (rules R15, R98). -/
structure Event where
  line : Line
  level : Bool
  deriving DecidableEq, Repr

/-- The lifecycle register LIFE; 0b11 is never held, so it has no name here (rule R23). DEDUCED, safe (log
entry 14). -/
inductive Life where
  | uninit
  | resetReady
  | programmed
  deriving DecidableEq, Repr

/-- The framing phase PH of the reference datapath: the three names rule R32 gives (log entry 14). -/
inductive FramePhase where
  | pre
  | bits
  | post
  deriving DecidableEq, Repr

/-- The reference datapath: SR, BITCNT, SUB and PH (rule R32, widths of rule R37). It drives nothing here: the lines are
written from the event list, which is what is normative. -/
structure Datapath where
  sr : BitVec 40
  bitcnt : BitVec 6
  sub : BitVec 2
  ph : FramePhase
  deriving DecidableEq, Repr

/-- What the host does with the block's inputs (rules R43, R59, R142). The block stores no such thing (rule R39): the list
of them in `State` is the model's own field (log entry 2). -/
inductive HostInput where
  /-- CMD = w and CMD_VALID = 1, held until acceptance (rules R43, R59). -/
  | offer (w : CmdWord)
  /-- CMD_VALID = 0 for a tick (rule R59, "wait any time"). -/
  | idle
  /-- CMD_VALID = 0 while the host polls STATUS until BUSY = 0 (rules R54, R55). -/
  | awaitReady
  /-- RST = 1 for a tick (rule R142). -/
  | blockReset
  deriving DecidableEq, Repr

/-- The state of the block. -/
structure State where
  /-- The output registers (rule R18). -/
  lines : Lines
  /-- LIFE (rule R23). -/
  life : Life
  /-- SEQ_ERR (rule R26). -/
  seqErr : Bool
  /-- CMD_ERR (rule R26). -/
  cmdErr : Bool
  /-- BUSY (rule R28). -/
  busy : Bool
  /-- The event index IX (rule R31). -/
  ix : BitVec 8
  /-- The operation latch OP_L (rule R30). -/
  opL : BitVec 4
  /-- The Tuning Word latch TW_L (rule R30). -/
  twL : TuningWord
  /-- The Phase Word latch PW_L (rule R30). -/
  pwL : PhaseWord
  /-- The bit latch BIT_L (rule R30). -/
  bitL : Bool
  /-- The reference datapath (rules R32, R37). -/
  dp : Datapath
  /-- The model's own: the ticks for which the current event still holds, this one among them; 0 when no event is in
  progress. Rule R151 implies it; the command level never reads it (log entry 6). -/
  hold : Nat
  /-- Every event since block reset, the oldest first (rule R33). -/
  trace : List Event
  /-- The model's own: what the host does from here on, the next action first (rule R39, log entry 2). -/
  inputs : List HostInput
  deriving DecidableEq, Repr

/-- Why the machine stops. The block itself never does (rule R126). -/
inductive Fault where
  /-- Raised by `step` and `tick` where BUSY = 1 and OP_L holds no operation's number, for which the spec gives no event
  list. No run from reset and no step from a state meeting the invariant reaches it. Safe (log entry 5). -/
  | latchedOpReserved
  deriving DecidableEq, Repr

/-- Why a step has no meaning. -/
inductive Refusal where
  /-- Raised by an arm of `exec` whose instruction has no meaning yet; no arm raises it, since all five have theirs.
  Safe. -/
  | notModelled (mnemonic : String)
  deriving DecidableEq, Repr

/-- All four lines before their first write (rule R20). -/
def Lines.unwritten : Lines := { clock := .unknown, data := .unknown, strobe := .unknown, reset := .unknown }

/-- The reference datapath after block reset: the spec leaves it unspecified. DESIGN CHOICE, unsafe: zero, and the first
phase (log entry 3). -/
def Datapath.zero : Datapath := { sr := 0, bitcnt := 0, sub := 0, ph := .pre }

/-- The state right after block reset (rules R37, R142). The latches and the datapath, which rule R37 leaves unspecified,
hold zero: DESIGN CHOICE, unsafe (log entry 3). The host offers nothing (log entry 2). -/
def State.reset : State where
  lines := Lines.unwritten
  life := .uninit
  seqErr := false
  cmdErr := false
  busy := false
  ix := 0
  opL := 0
  twL := 0
  pwL := 0
  bitL := false
  dp := Datapath.zero
  hold := 0
  trace := []
  inputs := []

end Sys2Proof.Machine
end

