-- ==== Sys2Proof/Machine/Operands.lean ====
section
/-! DEFINITION. The converter: PROGRAM's operands to the Tuning Word and the Phase Word (40_conversion.md), and the two
wire frames (30_encoding.md). All of it is exact integer arithmetic; `/` and `%` on Int with a positive divisor are the
floor division and floor-mod of rule R11. -/

namespace Sys2Proof.Machine

/-- The rounded frequency in tuning steps, before the reduction to 32 bits: round half up of F_raw / R (rules R86,
R87). -/
def roundedTuning (refHz : Nat) (fRaw : Int) : Int := (2 * fRaw + refHz) / (2 * refHz)

/-- The Tuning Word of F_raw for the reference clock `refHz` (rules R86, R88): the rounded value mod 2^32. -/
def tuningWord (refHz : Nat) (fRaw : Int) : TuningWord := BitVec.ofInt 32 (roundedTuning refHz fRaw)

/-- The phase normalised into [0, 360) degrees, in units of 2^-16 degree (rule R92). -/
def normalizedPhase (pRaw : Int) : Int := pRaw % 23592960

/-- The Phase Word of P_raw: degrees divided by 11.25, truncated, masked to 5 bits (rules R91, R93). -/
def phaseWord (pRaw : Int) : PhaseWord := BitVec.ofInt 5 (normalizedPhase pRaw / 737280)

/-- The programming frame (rule R78): TW, two zero control bits, a zero power-down bit, PW. -/
def frame40 (tw : TuningWord) (pw : PhaseWord) : BitVec 40 := ((tw ++ (0#3) : BitVec 35) ++ pw : BitVec 40)

/-- The power-down frame in the form SendFrame takes, 0x20 (rule R80). -/
def frame8 : BitVec 8 := 0x20

end Sys2Proof.Machine
end

