-- ==== Sys2Proof/Machine/Events.lean ====
section
/-! DEFINITION. The event lists: the pulse and bit primitives, frames on the wire, and EV of each command
(30_encoding.md, 41_serial.md, 42_lifecycle.md). -/

namespace Sys2Proof.Machine

/-- Pulse(L): assert, then deassert (rule R99). -/
def evPulse (l : Line) : List Event := [⟨l, true⟩, ⟨l, false⟩]

/-- TransmitBit(b): DATA first, then the CLOCK pulse (rule R100). -/
def evBit (b : Bool) : List Event := ⟨.data, b⟩ :: evPulse .clock

/-- One TransmitBit after another. -/
def evBits (bs : List Bool) : List Event := bs.flatMap evBit

/-- The bits of a value, bit 0 first. -/
def bitsLsbFirst {n : Nat} (v : BitVec n) : List Bool := (List.range n).map v.getLsbD

/-- The bits of a value, the top bit first: SendFrame's order (rule R73). -/
def bitsMsbFirst {n : Nat} (v : BitVec n) : List Bool := (List.range n).map fun k => v.getLsbD (n - 1 - k)

/-- SendFrame(F, n): F[n-1] first, F[0] last (rule R73). -/
def evSendFrame {n : Nat} (v : BitVec n) : List Event := evBits (bitsMsbFirst v)

/-- EV_TRANSMIT_BIT(b) (rule R101). -/
def evTransmitBit (b : Bool) : List Event := evBit b

/-- EV_PROGRAM from the Tuning Word and the Phase Word, the source's steps 2 to 5 (rule R102). -/
def evProgram (tw : TuningWord) (pw : PhaseWord) : List Event :=
  evBits (bitsMsbFirst tw) ++ evBit false ++ evBit false ++ evBit false ++ evBits (bitsMsbFirst pw) ++ evPulse .strobe

/-- EV_POWER_DOWN: a strobe, the pattern 0b00000100 least-significant bit first, a strobe (rule R105). -/
def evPowerDown : List Event := evPulse .strobe ++ evBits (bitsLsbFirst 0b00000100#8) ++ evPulse .strobe

/-- The three pulse cycles that open RESET: CLOCK, RESET, STROBE (rules R108, R109). -/
def evResetPrologue : List Event := evPulse .clock ++ evPulse .reset ++ evPulse .strobe

/-- EV_RESET: the three pulse cycles, then PROGRAM's events for F_raw = 0 and P_raw = 0 (rule R108), whose words are 0 for
every reference clock (rule R96). -/
def evReset : List Event := evResetPrologue ++ evProgram 0 0

/-- EV_INIT: the four lines to 0, in the order CLOCK, DATA, STROBE, RESET (rules R111, R112). -/
def evInit : List Event := [⟨.clock, false⟩, ⟨.data, false⟩, ⟨.strobe, false⟩, ⟨.reset, false⟩]

/-- The event list EV of an operation, from the operand latches alone (rules R30, R31). -/
def eventsFor (op : Op) (tw : TuningWord) (pw : PhaseWord) (b : Bool) : List Event :=
  match op with
  | .transmitBit => evTransmitBit b
  | .program => evProgram tw pw
  | .powerDown => evPowerDown
  | .reset => evReset
  | .init => evInit

/-- EV of a command for the reference clock `refHz`: a function of the command and REF_CLK_HZ alone (rules R25, R48,
R155). -/
def commandEventsAt (refHz : Nat) (i : Instr) : List Event :=
  match i with
  | .transmitBit b => evTransmitBit b
  | .program fRaw pRaw => evProgram (tuningWord refHz fRaw) (phaseWord pRaw)
  | .powerDown => evPowerDown
  | .reset => evReset
  | .init => evInit

/-- EV of a command (rule R155). -/
def commandEvents (i : Instr) : List Event := commandEventsAt Config.refClkHz i

end Sys2Proof.Machine
end

