-- ==== Sys2Proof/Machine/Datapath.lean ====
section
/-! DEFINITION. The reference datapath of rule R32: what it loads at acceptance, how it moves with each event, and the event
it would drive next. The lines are written from the event list; that this datapath drives the same list is a statement.
What rule R32 leaves open of it is DESIGN CHOICE, safe (log entry 8). -/

namespace Sys2Proof.Machine

/-- The events of an operation before its bits, which the phase PRE goes through: POWER_DOWN's first strobe, RESET's three
pulse cycles, INIT's four writes. -/
def prologueOf : Op → List Event
  | .transmitBit => []
  | .program => []
  | .powerDown => evPulse .strobe
  | .reset => evResetPrologue
  | .init => evInit

/-- Whether an operation ends with a commit strobe, the phase POST. -/
def hasCommit : Op → Bool
  | .transmitBit => false
  | .program => true
  | .powerDown => true
  | .reset => true
  | .init => false

/-- The datapath at acceptance (rule R32): PROGRAM loads FRAME40; POWER_DOWN loads FRAME8 into SR[39:32]; TRANSMIT_BIT its
one bit into SR[39]; RESET the frame FRAME40(0, 0); INIT sends no bit. -/
def loadDatapath (op : Op) (tw : TuningWord) (pw : PhaseWord) (b : Bool) : Datapath :=
  match op with
  | .transmitBit => { sr := (BitVec.ofBool b ++ 0#39 : BitVec 40), bitcnt := 1, sub := 0, ph := .bits }
  | .program => { sr := frame40 tw pw, bitcnt := 40, sub := 0, ph := .bits }
  | .powerDown => { sr := (frame8 ++ 0#32 : BitVec 40), bitcnt := 8, sub := 0, ph := .pre }
  | .reset => { sr := frame40 0 0, bitcnt := 40, sub := 0, ph := .pre }
  | .init => { sr := 0, bitcnt := 0, sub := 0, ph := .pre }

/-- The event the datapath drives next: PRE takes the prologue's event at the event index, BITS the write that SUB names,
POST the commit strobe. -/
def datapathEvent (op : Op) (ix : BitVec 8) (d : Datapath) : Option Event :=
  match d.ph with
  | .pre => (prologueOf op)[ix.toNat]?
  | .bits =>
    if d.sub = 0 then some ⟨.data, d.sr.getLsbD 39⟩
    else if d.sub = 1 then some ⟨.clock, true⟩
    else if d.sub = 2 then some ⟨.clock, false⟩
    else none
  | .post =>
    if hasCommit op then (evPulse .strobe)[d.sub.toNat]?
    else none

/-- The datapath after one event: PRE gives way to BITS at the prologue's end if bits are to be sent; each bit
transmission ends in SR <- SR[38:0] ++ 0 and one count down; POST follows the last bit (rule R32). -/
def advanceDatapath (op : Op) (ix : BitVec 8) (d : Datapath) : Datapath :=
  match d.ph with
  | .pre =>
    if ix.toNat + 1 = (prologueOf op).length ∧ d.bitcnt ≠ 0 then { d with ph := .bits } else d
  | .bits =>
    if d.sub = 2 then
      { sr := d.sr <<< 1, bitcnt := d.bitcnt - 1, sub := 0, ph := if d.bitcnt = 1 then .post else .bits }
    else { d with sub := d.sub + 1 }
  | .post => { d with sub := d.sub + 1 }

end Sys2Proof.Machine
end

