-- ==== Sys2Proof/Machine/Flags.lean ====
section
/-! DEFINITION. LIFE's transitions, the sequencing rule and the STATUS register (10_state.md, 42_lifecycle.md). -/

namespace Sys2Proof.Machine

/-- LIFE after a legal command is accepted (rule R114). -/
def nextLife (op : Op) (life : Life) : Life :=
  match op with
  | .transmitBit => life
  | .program => life
  | .powerDown => life
  | .reset => .programmed
  | .init => match life with
    | .uninit => .resetReady
    | .resetReady => .resetReady
    | .programmed => .programmed

/-- Whether a legal command accepted in `life` is a sequencing violation (rules R115, R128). -/
def violates (op : Op) (life : Life) : Bool :=
  match op with
  | .transmitBit => decide (life ≠ .programmed)
  | .program => decide (life ≠ .programmed)
  | .powerDown => decide (life ≠ .programmed)
  | .reset => decide (life = .uninit)
  | .init => false

/-- LIFE as STATUS[2:1] shows it (rule R23). -/
def lifeBits : Life → BitVec 2
  | .uninit => 0b00
  | .resetReady => 0b01
  | .programmed => 0b10

/-- The STATUS register (rule R27): BUSY in bit 0, LIFE in bits 2 to 1, SEQ_ERR in bit 3, CMD_ERR in bit 4, bits 7 to 5
hardwired to 0. A read is this function: it changes nothing (rule R29). -/
def status (s : State) : BitVec 8 :=
  ((((0#3 ++ BitVec.ofBool s.cmdErr : BitVec 4) ++ BitVec.ofBool s.seqErr : BitVec 5) ++ lifeBits s.life : BitVec 7)
    ++ BitVec.ofBool s.busy : BitVec 8)

/-- The output CMD_READY, which is not BUSY (rule R43). -/
def cmdReady (s : State) : Bool := !s.busy

end Sys2Proof.Machine
end

