-- ==== Sys2Proof/Machine/Ops.lean ====
section
/-! DEFINITION. The named operations over the state: writing a line, accepting a command, emitting its events, completing
it, the illegal word, block reset, and the input pins the host drives. The block takes no exception and returns from
none (rules R126, R134): its two error outcomes are the flags set here. -/

namespace Sys2Proof.Machine

/-- A written level: 1 is high, 0 is low (rule R19). -/
def Level.ofBool (b : Bool) : Level := if b then .high else .low

/-- The physical levels a held level admits: UNKNOWN admits both (rule R20). -/
def Level.admits (v : Level) (b : Bool) : Bool :=
  match v with
  | .low => !b
  | .high => b
  | .unknown => true

/-- The level of one line. -/
def lineLevel (ls : Lines) (l : Line) : Level :=
  match l with
  | .clock => ls.clock
  | .data => ls.data
  | .strobe => ls.strobe
  | .reset => ls.reset

/-- The lines after one event (rule R98). -/
def writeLine (ls : Lines) (e : Event) : Lines :=
  match e.line with
  | .clock => { ls with clock := Level.ofBool e.level }
  | .data => { ls with data := Level.ofBool e.level }
  | .strobe => { ls with strobe := Level.ofBool e.level }
  | .reset => { ls with reset := Level.ofBool e.level }

/-- The lines after a list of events. -/
def writeLines (ls : Lines) (evs : List Event) : Lines := evs.foldl writeLine ls

/-- SetLine(L, v), the only write of a line (rules R18, R98): the line takes the level and the trace gains the event. -/
def setLine (e : Event) (s : State) : State :=
  { s with lines := writeLine s.lines e, trace := s.trace ++ [e] }

/-- What every legal command does at acceptance, before its own operands are latched (rules R30, R31, R114, R115, R128,
R155): SEQ_ERR and LIFE, OP_L, the event index, BUSY. A latch the command does not use keeps its value: DESIGN CHOICE,
unsafe (log entry 7). -/
def accept (op : Op) (s : State) : State :=
  { s with
    seqErr := s.seqErr || violates op s.life
    life := nextLife op s.life
    busy := true
    ix := 0
    opL := opCode op }

/-- The datapath takes its acceptance value from the latches (rule R32). -/
def loadLatched (op : Op) (s : State) : State :=
  { s with dp := loadDatapath op s.twL s.pwL s.bitL }

/-- EV of the command in the latches; none where OP_L holds no operation's number (rules R30, R31). -/
def latchedEvents (s : State) : List Event :=
  match opOfCode s.opL with
  | some op => eventsFor op s.twL s.pwL s.bitL
  | none => []

/-- The datapath's move with one event of the command in the latches. -/
def stepDatapath (s : State) : Datapath :=
  match opOfCode s.opL with
  | some op => advanceDatapath op s.ix s.dp
  | none => s.dp

/-- One event of the command in progress: the line write, then IX <- IX + 1 (rules R31, R98). -/
def emit (s : State) (e : Event) : State :=
  setLine e { s with dp := stepDatapath s, ix := s.ix + 1 }

/-- A list of events, one after another (rules R52, R155). -/
def runEvents (evs : List Event) (s : State) : State := evs.foldl emit s

/-- The command in progress is complete: BUSY falls (rules R28, R31). -/
def complete (s : State) : State := { s with busy := false, hold := 0 }

/-- The events of the command in the latches that are still to come: EV from IX on (rule R31). -/
def remainingEvents (s : State) : List Event := (latchedEvents s).drop s.ix.toNat

/-- The command in progress runs to its last event without interruption and is complete (rules R107, R155). -/
def finish (s : State) : State := complete (runEvents (remainingEvents s) s)

/-- IllegalCommand (rule R127): CMD_ERR <- 1 and nothing else, and the run goes on; rule R130 allows a stop as well.
DESIGN CHOICE, safe (log entry 12). -/
def illegalCommand (s : State) : State := { s with cmdErr := true }

/-- Block reset (rule R142): every piece of the block's state takes its value of rule R37, a command in progress is
abandoned and the trace emptied. What the host will do next is not the block's (rule R39) and stands. -/
def blockReset (s : State) : State := { State.reset with inputs := s.inputs }

/-- The host's action of this step is over. -/
def consume (s : State) : State := { s with inputs := s.inputs.tail }

/-- What the block finds at its inputs in a step. -/
inductive PortEvent where
  /-- RST = 1 (rule R142). -/
  | reset
  /-- A command is in progress: CMD_READY = 0, so an offered word waits (rules R43, R148). -/
  | busy
  /-- Ready, and no word is offered: CMD_VALID = 0 (rule R43). -/
  | quiet
  /-- Acceptance of an illegal word (rules R43, R127). -/
  | illegal (why : IllegalCause)
  /-- Acceptance of a command (rules R43, R71). -/
  | command (i : Instr)
  deriving DecidableEq, Repr

/-- The input RST (rule R142). -/
def rstPin (s : State) : Bool :=
  match s.inputs.head? with
  | some .blockReset => true
  | _ => false

/-- The inputs CMD and CMD_VALID: the offered word, if CMD_VALID = 1 (rule R43). -/
def offeredWord (s : State) : Option CmdWord :=
  match s.inputs.head? with
  | some (.offer w) => some w
  | _ => none

/-- Block reset stands before everything; a word is accepted when CMD_VALID and CMD_READY are both 1, and is decoded then
(rules R43, R71, R142). A word at the port in the very tick RST = 1 is not accepted, which R43 and R142 leave open: DESIGN
CHOICE, unsafe (log entry 15). -/
def portEvent (s : State) : PortEvent :=
  if rstPin s then .reset
  else if s.busy then .busy
  else
    match offeredWord s with
    | none => .quiet
    | some w =>
      match decode w with
      | .command i => .command i
      | .illegal why => .illegal why

/-- A command-level step that finds a command in progress takes it to its end; the host's action waits (rules R43, R53).
DESIGN CHOICE, safe (log entry 9).
OP_L with no operation's number has no event list: a fault, safe (log entry 5). -/
def resume (s : State) : Host.Outcome State Fault Refusal :=
  match opOfCode s.opL with
  | some _ => .next (finish s)
  | none => .fault .latchedOpReserved

/-- The state with a table row's word offered next to a ready block (log entries 9 and 13). -/
def offerWord (s : State) (nbits w : Nat) : State :=
  { s with busy := false, inputs := .offer (BitVec.ofNat 128 (w % 2 ^ nbits)) :: s.inputs }

end Sys2Proof.Machine
end

