-- ==== Sys2Proof/Machine/Lifecycle.lean ====
section
/-! DEFINITION. The lifecycle commands RESET and INIT (42_lifecycle.md). -/

namespace Sys2Proof.Machine

/-- Acceptance of RESET (rule R108). -/
def acceptReset (s : State) : State := loadLatched .reset (accept .reset s)

/-- RESET (rules R108, R109). -/
def execReset (s : State) : Host.Outcome State Fault Refusal := .next (finish (acceptReset s))

/-- Acceptance of INIT (rule R111). -/
def acceptInit (s : State) : State := loadLatched .init (accept .init s)

/-- INIT (rules R111, R112). -/
def execInit (s : State) : Host.Outcome State Fault Refusal := .next (finish (acceptInit s))

end Sys2Proof.Machine
end

