-- ==== Sys2Proof/Machine/Serial.lean ====
section
/-! DEFINITION. The serializer commands TRANSMIT_BIT, PROGRAM and POWER_DOWN (41_serial.md): each one's acceptance, which
sets its flags and latches, and its meaning, which is the acceptance and then every event of its list. -/

namespace Sys2Proof.Machine

/-- Acceptance of TRANSMIT_BIT b (rule R101): BIT_L <- b. -/
def acceptTransmitBit (b : Bool) (s : State) : State :=
  loadLatched .transmitBit { accept .transmitBit s with bitL := b }

/-- TRANSMIT_BIT b (rule R101). -/
def execTransmitBit (b : Bool) (s : State) : Host.Outcome State Fault Refusal :=
  .next (finish (acceptTransmitBit b s))

/-- Acceptance of PROGRAM for the reference clock `refHz` (rules R85, R102): the converter's results go to TW_L and
PW_L. -/
def acceptProgramAt (refHz : Nat) (fRaw pRaw : Int) (s : State) : State :=
  loadLatched .program { accept .program s with twL := tuningWord refHz fRaw, pwL := phaseWord pRaw }

/-- Acceptance of PROGRAM (rules R85, R102). -/
def acceptProgram (fRaw pRaw : Int) (s : State) : State := acceptProgramAt Config.refClkHz fRaw pRaw s

/-- PROGRAM (rule R102). -/
def execProgram (fRaw pRaw : Int) (s : State) : Host.Outcome State Fault Refusal :=
  .next (finish (acceptProgram fRaw pRaw s))

/-- Acceptance of POWER_DOWN (rule R105). -/
def acceptPowerDown (s : State) : State := loadLatched .powerDown (accept .powerDown s)

/-- POWER_DOWN (rule R105). -/
def execPowerDown (s : State) : Host.Outcome State Fault Refusal := .next (finish (acceptPowerDown s))

end Sys2Proof.Machine
end

