-- ==== Sys2Proof/Machine/Dispatch.lean ====
section
/-! DEFINITION. The dispatch: the meaning of each command the block has accepted (rule R155). -/

namespace Sys2Proof.Machine

def exec (i : Instr) (s : State) : Host.Outcome State Fault Refusal :=
  match i with
  | .transmitBit b => Sys2Proof.Machine.execTransmitBit b s
  | .program fRaw pRaw => Sys2Proof.Machine.execProgram fRaw pRaw s
  | .powerDown => Sys2Proof.Machine.execPowerDown s
  | .reset => Sys2Proof.Machine.execReset s
  | .init => Sys2Proof.Machine.execInit s

end Sys2Proof.Machine
end

