-- ==== Sys2Proof/Machine/Step.lean ====
section
/-! DEFINITION. The command-level step (rule R155): block reset, or one accepted word, or nothing offered; and the word a
host offers next. -/

namespace Sys2Proof.Machine

/-- One step at the command level. A legal word is accepted and run to its last event, an illegal word sets CMD_ERR, and
with no word offered nothing happens (rules R43, R127, R142, R155). -/
def step (s : State) : Host.Outcome State Fault Refusal :=
  match portEvent s with
  | .reset => .next (blockReset (consume s))
  | .busy => resume s
  | .quiet => .next (consume s)
  | .illegal _ => .next (illegalCommand (consume s))
  | .command i => exec i (consume s)

/-- The state whose next step accepts and runs the table row's word (log entries 9 and 13). -/
def State.withFetchWord (s : State) (nbits w : Nat) : State := offerWord s nbits w

end Sys2Proof.Machine
end

