-- ==== Sys2Proof/Machine/Assembler.lean ====
section
/-! DEFINITION. The assembler syntax of rule R83: from a line of text to a command word. It refuses a decimal that is not
exactly representable and never rounds. There are no pseudo-instructions (rule R84). What rule R83 leaves open of the
text's form is log entry 11. -/

namespace Sys2Proof.Machine

/-- A decimal literal: sign, the digits read as one number, and how many of them follow the point. -/
structure Decimal where
  negative : Bool
  digits : Nat
  places : Nat
  deriving DecidableEq, Repr

/-- One line of assembler text (rule R83). -/
inductive AsmLine where
  | blank
  | transmitBit (b : Bool)
  | program (f p : Decimal)
  | programRaw (freq : BitVec 64) (phase : BitVec 32)
  | powerDown
  | reset
  | init
  | cmd (w : CmdWord)
  deriving DecidableEq, Repr

/-- Why the assembler refuses a line. -/
inductive AsmError where
  /-- The line is none of rule R83's forms. -/
  | badSyntax
  /-- A literal of PROGRAM is not a whole number of units, or out of the field's range (rules R68, R69, R83). -/
  | notRepresentable
  deriving DecidableEq, Repr

/-- What the assembler makes of a line: the words it stands for, none for a blank one, or a refusal. -/
inductive AsmResult where
  | words (ws : List CmdWord)
  | refused (why : AsmError)
  deriving DecidableEq, Repr

/-- The literal times 2^bits, where that is a whole number (rule R83). -/
def scaledDecimal (bits : Nat) (d : Decimal) : Option Int :=
  if d.digits * 2 ^ bits % 10 ^ d.places = 0 then
    let n : Int := ((d.digits * 2 ^ bits / 10 ^ d.places : Nat) : Int)
    some (if d.negative then -n else n)
  else none

/-- The word of PROGRAM for whole numbers of units in range, or a refusal (rule R83). -/
def assembleProgram (f p : Option Int) : AsmResult :=
  match f, p with
  | some fRaw, some pRaw =>
    if (Instr.program fRaw pRaw).wellFormed then .words [encode (.program fRaw pRaw)]
    else .refused .notRepresentable
  | _, _ => .refused .notRepresentable

/-- The word of one line (rule R83): RSV = 0 always, BIT = 0 except in TRANSMIT_BIT, FREQ = PHASE = 0 except in
PROGRAM; `.cmd` gives any word. -/
def assembleLine (l : AsmLine) : AsmResult :=
  match l with
  | .blank => .words []
  | .transmitBit b => .words [encode (.transmitBit b)]
  | .program f p => assembleProgram (scaledDecimal 32 f) (scaledDecimal 16 p)
  | .programRaw freq phase => .words [packWord freq phase 0 false (opCode .program)]
  | .powerDown => .words [encode .powerDown]
  | .reset => .words [encode .reset]
  | .init => .words [encode .init]
  | .cmd w => .words [w]

/-- The value of a digit character in a base up to 16. -/
def digitValue (base : Nat) (c : Char) : Option Nat :=
  let v : Option Nat :=
    if '0' ≤ c ∧ c ≤ '9' then some (c.toNat - 48)
    else if 'a' ≤ c ∧ c ≤ 'f' then some (c.toNat - 87)
    else if 'A' ≤ c ∧ c ≤ 'F' then some (c.toNat - 55)
    else none
  match v with
  | some n => if n < base then some n else none
  | none => none

/-- Digits read after the number `acc`, with their count; `_` only groups digits (rule R11). -/
def readDigits (base acc count : Nat) : List Char → Option (Nat × Nat)
  | [] => some (acc, count)
  | c :: cs =>
    if c = '_' then readDigits base acc count cs
    else
      match digitValue base c with
      | some v => readDigits base (acc * base + v) (count + 1) cs
      | none => none

/-- A number of at least one and at most `most` digits. -/
def readNumber (base most : Nat) (cs : List Char) : Option Nat :=
  match readDigits base 0 0 cs with
  | some (n, count) => if 1 ≤ count ∧ count ≤ most then some n else none
  | none => none

/-- What follows `0x`, if the token starts so. -/
def afterHexPrefix : List Char → Option (List Char)
  | '0' :: 'x' :: cs => some cs
  | _ => none

/-- A field's hexadecimal literal, with or without `0x`. -/
def readHex (most : Nat) (cs : List Char) : Option Nat :=
  match afterHexPrefix cs with
  | some ds => readNumber 16 most ds
  | none => readNumber 16 most cs

/-- The text before and after the first point. -/
def splitPoint (before : List Char) : List Char → List Char × Option (List Char)
  | [] => (before, none)
  | c :: cs => if c = '.' then (before, some cs) else splitPoint (before ++ [c]) cs

/-- An unsigned decimal literal: digits, and a point with more digits if it has one. -/
def readUnsigned (negative : Bool) (cs : List Char) : Option Decimal :=
  match splitPoint [] cs with
  | (whole, none) =>
    match readDigits 10 0 0 whole with
    | some (n, count) => if count = 0 then none else some ⟨negative, n, 0⟩
    | none => none
  | (whole, some part) =>
    match readDigits 10 0 0 whole with
    | some (n, count) =>
      match readDigits 10 n 0 part with
      | some (m, places) => if count = 0 ∨ places = 0 then none else some ⟨negative, m, places⟩
      | none => none
    | none => none

/-- A decimal literal with its sign; the spec's text writes minus as the hyphen or as U+2212. -/
def readDecimal : List Char → Option Decimal
  | [] => none
  | c :: cs => if c = '-' ∨ c = '\u2212' then readUnsigned true cs else readUnsigned false (c :: cs)

/-- The token in progress, if there is one. -/
def endToken (acc : List Char) : List (List Char) := if acc = [] then [] else [acc]

/-- The tokens of a line: `;` starts a comment, blanks part tokens, a comma is a token (rule R83). -/
def tokens (acc : List Char) : List Char → List (List Char)
  | [] => endToken acc
  | c :: cs =>
    if c = ';' then endToken acc
    else if c = ' ' ∨ c = '\t' ∨ c = '\r' then endToken acc ++ tokens [] cs
    else if c = ',' then endToken acc ++ [','] :: tokens [] cs
    else tokens (acc ++ [c]) cs

/-- TRANSMIT_BIT's operand. -/
def parseTransmitBit (ts : List (List Char)) : Option AsmLine :=
  match ts with
  | [['0']] => some (.transmitBit false)
  | [['1']] => some (.transmitBit true)
  | _ => none

/-- PROGRAM's operands, as decimals or raw. -/
def parseProgram (ts : List (List Char)) : Option AsmLine :=
  match ts with
  | [f, [','], p] =>
    match readDecimal f, readDecimal p with
    | some df, some dp => some (.program df dp)
    | _, _ => none
  | [['r', 'a', 'w'], f, [','], p] =>
    match readHex 16 f, readHex 8 p with
    | some hf, some hp => some (.programRaw (BitVec.ofNat 64 hf) (BitVec.ofNat 32 hp))
    | _, _ => none
  | _ => none

/-- The operand of `.cmd`: 0x and exactly 32 hexadecimal digits. -/
def parseCmd (ts : List (List Char)) : Option AsmLine :=
  match ts with
  | [t] =>
    match afterHexPrefix t with
    | some ds =>
      match readDigits 16 0 0 ds with
      | some (n, count) => if count = 32 then some (.cmd (BitVec.ofNat 128 n)) else none
      | none => none
    | none => none
  | _ => none

/-- A mnemonic that takes no operand. -/
def parseBare (l : AsmLine) (ts : List (List Char)) : Option AsmLine := if ts = [] then some l else none

/-- The line of a list of tokens; mnemonics are upper case (rule R83). -/
def parseTokens (ts : List (List Char)) : Option AsmLine :=
  match ts with
  | [] => some .blank
  | m :: rest =>
    if m = "TRANSMIT_BIT".toList then parseTransmitBit rest
    else if m = "PROGRAM".toList then parseProgram rest
    else if m = "POWER_DOWN".toList then parseBare .powerDown rest
    else if m = "RESET".toList then parseBare .reset rest
    else if m = "INIT".toList then parseBare .init rest
    else if m = ".cmd".toList then parseCmd rest
    else none

/-- One line of text to its words. -/
def assembleChars (cs : List Char) : AsmResult :=
  match parseTokens (tokens [] cs) with
  | some l => assembleLine l
  | none => .refused .badSyntax

/-- The lines of a text. -/
def textLines (acc : List Char) : List Char → List (List Char)
  | [] => [acc]
  | c :: cs => if c = '\n' then acc :: textLines [] cs else textLines (acc ++ [c]) cs

/-- The words of a list of lines, in order; the first refusal refuses the whole. -/
def assembleLines : List (List Char) → AsmResult
  | [] => .words []
  | l :: ls =>
    match assembleChars l with
    | .refused e => .refused e
    | .words ws =>
      match assembleLines ls with
      | .refused e => .refused e
      | .words rest => .words (ws ++ rest)

/-- A text of one command a line to its words (rule R83). -/
def assemble (text : String) : AsmResult := assembleLines (textLines [] text.toList)

end Sys2Proof.Machine
end

