-- ==== Sys2Proof/Machine/Sweep.lean ====
section
/-! DEFINITION. The host's reference client: the three sweeps as step functions over a host state (45_host_sweep.md). Host
software, not block behaviour; arithmetic is exact, in units of 2^-32 Hz (rules R117, R125). -/

namespace Sys2Proof.Machine

/-- The three sweep programs (rules R120, R121, R122). -/
inductive SweepVariant where
  | up
  | down
  | loop
  deriving DecidableEq, Repr

/-- The host's sweep state (rule R119). -/
structure SweepState where
  variant : SweepVariant
  cur : Int
  inc : Int
  min : Int
  max : Int
  step : Int
  delay : Nat
  deriving DecidableEq, Repr

/-- The state a sweep starts in (rules R120, R121, R122); only the loop uses `inc`, which is `step` in the others too: DESIGN
CHOICE, safe (log entry 10). -/
def sweepStart (variant : SweepVariant) (min max step : Int) (delay : Nat) : SweepState where
  variant := variant
  cur := match variant with
    | .up => min
    | .down => max
    | .loop => min
  inc := step
  min := min
  max := max
  step := step
  delay := delay

/-- sweep_up's update: add, and wrap to min past max (rule R120). -/
def sweepUpNext (s : SweepState) : SweepState :=
  if s.cur + s.step > s.max then { s with cur := s.min } else { s with cur := s.cur + s.step }

/-- sweep_down's update: subtract, and wrap to max below min (rule R121). -/
def sweepDownNext (s : SweepState) : SweepState :=
  if s.cur - s.step < s.min then { s with cur := s.max } else { s with cur := s.cur - s.step }

/-- sweep_loop's update: add, and then turn if past a bound (rules R122, R123). -/
def sweepLoopNext (s : SweepState) : SweepState :=
  if s.cur + s.inc > s.max ∨ s.cur + s.inc < s.min then { s with cur := s.cur + s.inc, inc := -s.inc }
  else { s with cur := s.cur + s.inc }

/-- The update of one iteration. -/
def sweepNext (s : SweepState) : SweepState :=
  match s.variant with
  | .up => sweepUpNext s
  | .down => sweepDownNext s
  | .loop => sweepLoopNext s

/-- The one command of an iteration, PROGRAM(cur, 0); none where cur has no FREQ encoding, which is refused and not wrapped
(rules R117, R125). -/
def sweepCommand (s : SweepState) : Option CmdWord :=
  if FreqInRange s.cur then some (encode (.program s.cur 0)) else none

/-- sweep_step (rule R119): the iteration's command and the next host state. -/
def sweepStep (s : SweepState) : Option (CmdWord × SweepState) :=
  match sweepCommand s with
  | some w => some (w, sweepNext s)
  | none => none

/-- The driver of rule R119, under fuel: sweep steps until the host's stop condition holds, with the commands issued and
the host state at the end. A command that cannot be encoded ends it. When the stop condition is checked (before every step,
the first included) and what it sees (the sweep state alone) rule R119 leaves open: DESIGN CHOICE, unsafe (log entry 16). -/
def driveSweep (stop : SweepState → Bool) : Nat → SweepState → List CmdWord × SweepState
  | 0, s => ([], s)
  | n + 1, s =>
    if stop s then ([], s)
    else
      match sweepStep s with
      | some (w, t) => (w :: (driveSweep stop n t).1, (driveSweep stop n t).2)
      | none => ([], s)

/-- The host's actions for one issued command (rules R117, R118): offer it, await BUSY = 0, then wait; `idles` is how many
ticks that wait lasts, which the spec leaves open: any value (log entry 10). -/
def sweepActions (idles : Nat) (w : CmdWord) : List HostInput :=
  [.offer w, .awaitReady] ++ List.replicate idles .idle

end Sys2Proof.Machine
end

