-- ==== Sys2Proof/Machine/Observe.lean ====
section
/-! DEFINITION. The observation of a run: the symbol stream and the segment view of a trace (20_memory.md). -/

namespace Sys2Proof.Machine

/-- One symbol of the stream (rule R60). -/
inductive Symbol where
  /-- A CLOCK assertion, with DATA's level then. -/
  | bit (d : Level)
  /-- A STROBE assertion. -/
  | stb
  /-- A RESET assertion. -/
  | rst
  deriving DecidableEq, Repr

/-- The symbols of a list of events, from DATA's level `d` on (rule R60). -/
def symFrom (d : Level) : List Event → List Symbol
  | [] => []
  | ⟨.data, v⟩ :: es => symFrom (Level.ofBool v) es
  | ⟨.clock, true⟩ :: es => .bit d :: symFrom d es
  | ⟨.strobe, true⟩ :: es => .stb :: symFrom d es
  | ⟨.reset, true⟩ :: es => .rst :: symFrom d es
  | ⟨.clock, false⟩ :: es => symFrom d es
  | ⟨.strobe, false⟩ :: es => symFrom d es
  | ⟨.reset, false⟩ :: es => symFrom d es

/-- sym(trace): DATA is UNKNOWN after block reset (rule R60). -/
def sym (trace : List Event) : List Symbol := symFrom .unknown trace

/-- The bits clocked out before a commit, and whether an RST symbol stood among them (rule R61). -/
structure Segment where
  bits : List Level
  sawReset : Bool
  deriving DecidableEq, Repr

/-- A segment with nothing in it. -/
def Segment.empty : Segment := { bits := [], sawReset := false }

/-- The committed segments of a symbol stream in order, and what is pending after the last STB, from the pending part
`acc` on (rule R61). -/
def segmentsFrom (acc : Segment) : List Symbol → List Segment × Segment
  | [] => ([], acc)
  | .bit d :: ss => segmentsFrom { acc with bits := acc.bits ++ [d] } ss
  | .rst :: ss => segmentsFrom { acc with sawReset := true } ss
  | .stb :: ss => (acc :: (segmentsFrom Segment.empty ss).1, (segmentsFrom Segment.empty ss).2)

/-- The segment view of a trace (rule R61). -/
def segments (trace : List Event) : List Segment × Segment := segmentsFrom Segment.empty (sym trace)

end Sys2Proof.Machine
end

