-- ==== Sys2Proof/Machine/Tick.lean ====
section
/-! DEFINITION. The tick level (rules R28, R31, R151): one tick of the block clock. The state is what the registers hold
during a tick; `tick` gives the next tick's. It refines the command level, which is the normative one (D2, D24). -/

namespace Sys2Proof.Machine

/-- What the acceptance of a command sets (rules R30, R43). -/
def acceptInstr (i : Instr) (s : State) : State :=
  match i with
  | .transmitBit b => acceptTransmitBit b s
  | .program fRaw pRaw => acceptProgram fRaw pRaw s
  | .powerDown => acceptPowerDown s
  | .reset => acceptReset s
  | .init => acceptInit s

/-- The next event of the command in progress takes effect and will hold for `e` ticks; with no event left the command is
complete (rules R31, R151). -/
def nextEvent (e : Nat) (s : State) : State :=
  match remainingEvents s with
  | ev :: _ => { emit s ev with hold := e }
  | [] => complete s

/-- A tick of a command in progress: the current event holds on, or the next one takes effect (rule R151). -/
def runTick (e : Nat) (s : State) : State :=
  if 1 < s.hold then { s with hold := s.hold - 1 } else nextEvent e s

/-- The host's action over a busy tick: an idle tick has passed; an offered word and a poll wait (rules R43, R54). -/
def passBusy (s : State) : State :=
  match s.inputs.head? with
  | some .idle => consume s
  | _ => s

/-- One tick with `e` ticks for an event. Acceptance at tick t leaves BUSY = 1 and event 0 in effect at tick t + 1
(rule R151); an illegal word takes its one tick (rules R127, R151). -/
def tickWith (e : Nat) (s : State) : Host.Outcome State Fault Refusal :=
  match portEvent s with
  | .reset => .next (blockReset (consume s))
  | .busy =>
    match opOfCode s.opL with
    | some _ => .next (passBusy (runTick e s))
    | none => .fault .latchedOpReserved
  | .quiet => .next (consume s)
  | .illegal _ => .next (illegalCommand (consume s))
  | .command i => .next (nextEvent e (acceptInstr i (consume s)))

/-- One tick of the block clock (rule R151). -/
def tick (s : State) : Host.Outcome State Fault Refusal := tickWith Config.eventTicks s

/-- `n` ticks with `e` ticks for an event, stopping at a fault. -/
def ticksWith (e : Nat) : Nat → State → Host.Outcome State Fault Refusal
  | 0, s => .next s
  | n + 1, s =>
    match tickWith e s with
    | .next t => ticksWith e n t
    | .fault r => .fault r
    | .refused r => .refused r

/-- `n` ticks of the block clock (rule R151). -/
def ticks (n : Nat) (s : State) : Host.Outcome State Fault Refusal := ticksWith Config.eventTicks n s

end Sys2Proof.Machine
end

