-- ==== Sys2Proof/Safety.lean ====
section
/-! DEFINITION. What a good run is, and the invariant of the machine, in the terms the statements use. -/

namespace Sys2Proof.Machine

/-- A run is good if at its end no error flag is set (rules R130, R156). -/
abbrev Good (s : State) : Prop := s.cmdErr = false ∧ s.seqErr = false

/-- `n` command-level steps, stopping at a fault (rule R156: a run is the host's finite sequence of words applied by
`step`). -/
def runSteps : Nat → State → Host.Outcome State Fault Refusal
  | 0, s => .next s
  | n + 1, s =>
    match step s with
    | .next t => runSteps n t
    | .fault r => .fault r
    | .refused r => .refused r

/-- The events still to come of the command in progress; none when the block is ready. -/
def pendingEvents (s : State) : List Event := if s.busy then remainingEvents s else []

/-- CLOCK, STROBE and RESET are 0 (rule R22). -/
abbrev Quiet (ls : Lines) : Prop := ls.clock = .low ∧ ls.strobe = .low ∧ ls.reset = .low

/-- The lines hold what the trace wrote: the last level written, UNKNOWN before the first write (rules R20, R33, R98). -/
abbrev LinesFollowTrace (s : State) : Prop := s.lines = writeLines Lines.unwritten s.trace

/-- Once INIT or RESET has been accepted, CLOCK, STROBE and RESET are 0 when no command is in progress, and will be when the
one in progress is complete (rule R22). -/
abbrev QuietWhenReady (s : State) : Prop := s.life ≠ .uninit → Quiet (writeLines s.lines (pendingEvents s))

/-- While a command is in progress OP_L names an operation, IX has not passed the end of its list, and the trace ends in the
events IX has passed (rules R30, R31, R52). -/
abbrev SequencerInStep (s : State) : Prop :=
  s.busy = true →
    (opOfCode s.opL).isSome = true ∧ s.ix.toNat ≤ (latchedEvents s).length ∧
      (latchedEvents s).take s.ix.toNat <:+ s.trace

/-- No event is held when no command is in progress. -/
abbrev HoldOnlyWhenBusy (s : State) : Prop := s.busy = false → s.hold = 0

/-- The invariant of the machine. -/
abbrev Inv (s : State) : Prop :=
  LinesFollowTrace s ∧ QuietWhenReady s ∧ SequencerInStep s ∧ HoldOnlyWhenBusy s

end Sys2Proof.Machine
end

