-- ==== Sys2Proof/Certificates/Slice0/Obligations.lean ====
section
/-! DEFINITION. The statements about the block, for the provers. Each docstring names the rules it formalises. -/

open Sys2Proof Sys2Proof.Machine

/-! Reset -/

/-- Rule R37: what block reset leaves, for every piece of state the rule gives a value; each line is a draw that admits
both levels. The latches and the datapath, which the rule leaves unspecified, are not spoken of. -/
def Obligations.ResetLeavesTheTablesValues : Prop :=
  (∀ l, lineLevel State.reset.lines l = .unknown) ∧
    (∀ l b, (lineLevel State.reset.lines l).admits b = true) ∧
    State.reset.life = .uninit ∧ State.reset.seqErr = false ∧ State.reset.cmdErr = false ∧
    State.reset.busy = false ∧ State.reset.ix = 0 ∧ State.reset.trace = [] ∧
    cmdReady State.reset = true ∧ status State.reset = 0x00

/-- Rule R142: with RST = 1, at either level and in every state, a command in progress is abandoned and the state rule R37
gives a value takes that value. What the host does afterwards stands. -/
def Obligations.BlockResetAbandonsEverything : Prop :=
  ∀ (s : State) (rest : List HostInput), s.inputs = .blockReset :: rest →
    ∃ t, step s = .next t ∧ tick s = .next t ∧
      t.lines = ⟨.unknown, .unknown, .unknown, .unknown⟩ ∧ t.life = .uninit ∧ t.seqErr = false ∧
      t.cmdErr = false ∧ t.busy = false ∧ t.ix = 0 ∧ t.trace = [] ∧ t.inputs = rest

/-- Rule R24: only block reset leads back to UNINIT, at either level. -/
def Obligations.OnlyBlockResetReturnsToUninit : Prop :=
  ∀ s t : State, step s = .next t ∨ tick s = .next t →
    (s.inputs.head? = some .blockReset → t.life = .uninit) ∧
      (s.inputs.head? ≠ some .blockReset → s.life ≠ .uninit → t.life ≠ .uninit)

/-- Rule R26: an error flag once set stays set until block reset, at either level. -/
def Obligations.ErrorFlagsAreSticky : Prop :=
  ∀ s t : State, s.inputs.head? ≠ some .blockReset → step s = .next t ∨ tick s = .next t →
    (s.seqErr = true → t.seqErr = true) ∧ (s.cmdErr = true → t.cmdErr = true)

/-! Decoding and encoding -/

/-- Rule R71, with the fields written as arithmetic on the word: every word is one command with the operands its fields
hold, or illegal. -/
def Obligations.DecodeReadsTheFieldsOfTheWord : Prop :=
  ∀ w : CmdWord,
    let op : Nat := w.toNat % 16
    let rsv : Nat := w.toNat / 2 ^ 5 % 2 ^ 27
    let freq : Nat := w.toNat / 2 ^ 64
    let phase : Nat := w.toNat / 2 ^ 32 % 2 ^ 32
    (rsv = 0 ∧ op = 1 → decode w = .command (.transmitBit (decide (w.toNat / 2 ^ 4 % 2 = 1)))) ∧
      (rsv = 0 ∧ op = 2 →
        decode w = .command (.program (if freq < 2 ^ 63 then (freq : Int) else (freq : Int) - 2 ^ 64)
          (if phase < 2 ^ 31 then (phase : Int) else (phase : Int) - 2 ^ 32))) ∧
      (rsv = 0 ∧ op = 3 → decode w = .command .powerDown) ∧
      (rsv = 0 ∧ op = 4 → decode w = .command .reset) ∧
      (rsv = 0 ∧ op = 5 → decode w = .command .init) ∧
      (rsv ≠ 0 ∨ op = 0 ∨ 6 ≤ op → ∃ why, decode w = .illegal why)

/-- Rules R67 and R127: an illegal word offered to a ready block is consumed, sets CMD_ERR and changes nothing else, at
either level. -/
def Obligations.IllegalWordOnlySetsCmdErr : Prop :=
  ∀ (s : State) (w : CmdWord) (rest : List HostInput), s.busy = false → s.inputs = .offer w :: rest →
    (w.toNat % 16 = 0 ∨ 6 ≤ w.toNat % 16 ∨ w.toNat / 2 ^ 5 % 2 ^ 27 ≠ 0) →
      step s = .next { s with cmdErr := true, inputs := rest } ∧
        tick s = .next { s with cmdErr := true, inputs := rest }

/-- Encoding and decoding agree: the word of every well-formed instruction decodes to it, at every operand. -/
def Obligations.DecodeOfEncodeIsTheInstruction : Prop :=
  ∀ i : Instr, i.wellFormed = true → decode (encode i) = .command i

/-- The other direction (rule R66): a legal word and the encoding of the instruction it decodes to agree on OP, RSV and
the fields the operation reads, and the encoding is zero elsewhere. -/
def Obligations.EncodeOfDecodeKeepsTheReadFields : Prop :=
  ∀ (w : CmdWord) (i : Instr), decode w = .command i →
    i.wellFormed = true ∧
      encode i = w &&&
        (match i with
        | .transmitBit _ => 0x000000000000000000000000FFFFFFFF
        | .program _ _ => 0xFFFFFFFFFFFFFFFFFFFFFFFFFFFFFFEF
        | .powerDown => 0x000000000000000000000000FFFFFFEF
        | .reset => 0x000000000000000000000000FFFFFFEF
        | .init => 0x000000000000000000000000FFFFFFEF)

/-- Rule R66: words that agree on OP, RSV and the fields their operation reads decode alike, whatever their other fields
hold, and a field that is not read makes no word illegal. -/
def Obligations.UnreadFieldsHaveNoEffect : Prop :=
  ∀ v w : CmdWord, wordOp v = wordOp w → wordRsv v = wordRsv w →
    (wordOp v = 0x1 → wordBit v = wordBit w) →
    (wordOp v = 0x2 → wordFreq v = wordFreq w ∧ wordPhase v = wordPhase w) → decode v = decode w

/-- The rows of the opcode table: a word matches a row's pattern under its mask exactly when it decodes to that row's
command. -/
def Obligations.OpcodeTableRowsSelectTheCommands : Prop :=
  ∀ w : CmdWord,
    (w &&& 0xFFFFFFEF = 0x1 ↔ ∃ b, decode w = .command (.transmitBit b)) ∧
      (w &&& 0xFFFFFFEF = 0x2 ↔ ∃ f p, decode w = .command (.program f p)) ∧
      (w &&& 0xFFFFFFEF = 0x3 ↔ decode w = .command .powerDown) ∧
      (w &&& 0xFFFFFFEF = 0x4 ↔ decode w = .command .reset) ∧
      (w &&& 0xFFFFFFEF = 0x5 ↔ decode w = .command .init)

/-- Words written out from 95_test_vectors.md decode to what they stand for: PROGRAM 1234, 90 is 1234 * 2^32 and
90 * 2^16. -/
def Obligations.WrittenWordsDecode : Prop :=
  decode 0x00000000000000000000000000000011 = .command (.transmitBit true) ∧
    decode 0x000004D200000000005A000000000002 = .command (.program 5299989643264 5898240) ∧
    decode 0xFFFFFFFF00000000FFF4C00000000002 = .command (.program (-4294967296) (-737280)) ∧
    decode 0x00000000000000000000000000000003 = .command .powerDown ∧
    decode 0x00000000000000000000000000000004 = .command .reset ∧
    decode 0x00000000000000000000000000000005 = .command .init ∧
    decode 0x00000000000000000000000000000022 = .illegal .reservedBits ∧
    decode 0x80000000000000000000000000000006 = .illegal .reservedOp

/-! Conversion -/

/-- Rule R86, over the rationals: the Tuning Word is F_raw / R rounded half up, mod 2^32, for every R at least 1 and every
F_raw. -/
def Obligations.TuningWordIsTheRoundedRatio : Prop :=
  ∀ (R : Nat) (f : Int), 1 ≤ R →
    ((tuningWord R f).toNat : Int) = ⌊(f : ℚ) / R + 1 / 2⌋ % 2 ^ 32

/-- Rule R87: a tie goes up, for negative values too; ties happen only for even R, and then exactly when F_raw is R/2 mod
R. -/
def Obligations.TuningTiesGoUp : Prop :=
  ∀ (R : Nat) (f : Int), 1 ≤ R →
    (∀ k : Int, (f : ℚ) / R = k + 1 / 2 → ((tuningWord R f).toNat : Int) = (k + 1) % 2 ^ 32) ∧
      ((∃ k : Int, (f : ℚ) / R = k + 1 / 2) ↔ R % 2 = 0 ∧ f % R = R / 2)

/-- Rule R89: below half the reference clock the rounded value lies in [0, 2^31] and is the Tuning Word itself; it is 2^31
only in the last half step below R/2. -/
def Obligations.TuningWordInRangeIsExact : Prop :=
  ∀ (R : Nat) (f : Int), 1 ≤ R → 0 ≤ f → f < R * 2 ^ 31 →
    0 ≤ ⌊(f : ℚ) / R + 1 / 2⌋ ∧ ⌊(f : ℚ) / R + 1 / 2⌋ ≤ 2 ^ 31 ∧
      ((tuningWord R f).toNat : Int) = ⌊(f : ℚ) / R + 1 / 2⌋ ∧
      ((tuningWord R f).toNat = 2 ^ 31 ↔ 2 ^ 32 * (R : Int) ≤ 2 * f + R)

/-- Rule R88: a frequency and its alias, any number of reference clocks away, give the same Tuning Word. -/
def Obligations.TuningWordAliases : Prop :=
  ∀ (R : Nat) (f k : Int), 1 ≤ R → tuningWord R (f + k * (R * 2 ^ 32)) = tuningWord R f

/-- Rule R91: the Phase Word in its first form, for every P_raw. -/
def Obligations.PhaseWordIsTheFloorOfSteps : Prop :=
  ∀ p : Int, ((phaseWord p).toNat : Int) = p / 737280 % 32

/-- Rule R93: PW = k exactly on the k-th band of 11.25 degrees. -/
def Obligations.PhaseWordBands : Prop :=
  ∀ (p : Int) (k : Nat), k < 32 →
    ((phaseWord p).toNat = k ↔ 737280 * (k : Int) ≤ p % 23592960 ∧ p % 23592960 < 737280 * ((k : Int) + 1))

/-- Rule R94: the Phase Word has a period of 360 degrees and is at most 31. -/
def Obligations.PhaseWordIsPeriodic : Prop :=
  ∀ p k : Int, phaseWord (p + 23592960 * k) = phaseWord p ∧ (phaseWord p).toNat ≤ 31

/-- Rule R97: the corner cases of the conversion, with R = 125000000. -/
def Obligations.ConversionCornerCases : Prop :=
  tuningWord 125000000 0 = 0 ∧
    tuningWord 125000000 (125000000 * 2 ^ 32) = 0 ∧
    tuningWord 125000000 (62500000 * 2 ^ 32) = 0x80000000 ∧
    tuningWord 125000000 62500000 = 1 ∧
    tuningWord 125000000 (-62500000) = 0 ∧
    tuningWord 125000000 (-(2 ^ 32)) = 0xFFFFFFDE ∧
    tuningWord 125000000 (2 ^ 63 - 1) = 0x2E0BE827 ∧
    tuningWord 125000000 (-(2 ^ 63)) = 0xD1F417D9 ∧
    phaseWord 0 = 0 ∧ phaseWord (737280 - 1) = 0 ∧ phaseWord 737280 = 1 ∧ phaseWord 0x0167FC00 = 31 ∧
    phaseWord (360 * 65536) = 0 ∧ phaseWord (-737280) = 31 ∧ phaseWord (2 ^ 31 - 1) = 0 ∧
    phaseWord (-(2 ^ 31)) = 31

/-! Frames -/

/-- Rule R78: FRAME40 is TW * 2^8 + PW, and PROGRAM sends it: position k on DATA carries the bit the rule's table gives
it. -/
def Obligations.Frame40GoesOutInTheTablesOrder : Prop :=
  ∀ (tw : TuningWord) (pw : PhaseWord),
    (frame40 tw pw).toNat = tw.toNat * 2 ^ 8 + pw.toNat ∧
      evProgram tw pw = evSendFrame (frame40 tw pw) ++ [⟨.strobe, true⟩, ⟨.strobe, false⟩] ∧
      ∀ k < 40, (bitsMsbFirst (frame40 tw pw))[k]? =
        some (if k < 32 then tw.getLsbD (31 - k) else if k < 35 then false else pw.getLsbD (39 - k))

/-- Rule R79: bits 7 to 5 of FRAME40 are 0, and distinct words give distinct frames. -/
def Obligations.Frame40IsInjective : Prop :=
  ∀ (tw tw' : TuningWord) (pw pw' : PhaseWord),
    (frame40 tw pw).toNat / 32 % 8 = 0 ∧
      (∃ t < 2 ^ 32, ∃ p < 32, (frame40 tw pw).toNat = t * 256 + p) ∧
      (frame40 tw pw = frame40 tw' pw' → tw = tw' ∧ pw = pw')

/-! The five commands: each completes in every state, and what it does and leaves -/

/-- Rule R101: TRANSMIT_BIT. The frame: LIFE, CMD_ERR, the lines STROBE and RESET, and what the host does next. -/
def Obligations.TransmitBitRuns : Prop :=
  (∀ w : CmdWord, w &&& 0xFFFFFFEF = 0x1 → decode w = .command (.transmitBit (w.getLsbD 4))) ∧
    ∀ (b : Bool) (s : State), ∃ t, exec (.transmitBit b) s = .next t ∧
      t.trace = s.trace ++ [⟨.data, b⟩, ⟨.clock, true⟩, ⟨.clock, false⟩] ∧
      sym t.trace = sym s.trace ++ [.bit (if b then .high else .low)] ∧
      t.lines = { s.lines with data := if b then .high else .low, clock := .low } ∧
      t.seqErr = (s.seqErr || decide (s.life ≠ .programmed)) ∧ t.life = s.life ∧ t.cmdErr = s.cmdErr ∧
      t.busy = false ∧ t.inputs = s.inputs

/-- Rules R102 and R104: PROGRAM, with the frame written as arithmetic on F_raw, P_raw and the reference clock, whatever
that is. The frame of the instruction: LIFE, CMD_ERR, the line RESET, and what the host does next. -/
def Obligations.ProgramRuns : Prop :=
  (∀ w : CmdWord, w &&& 0xFFFFFFEF = 0x2 →
      decode w = .command (.program (w.extractLsb' 64 64).toInt (w.extractLsb' 32 32).toInt)) ∧
    ∀ (fRaw pRaw : Int) (s : State),
      let R : Int := Config.refClkHz
      let tw : Nat := ((2 * fRaw + R) / (2 * R) % 2 ^ 32).toNat
      let pw : Nat := (pRaw / 737280 % 32).toNat
      ∃ t, exec (.program fRaw pRaw) s = .next t ∧
        t.trace = s.trace ++
          ((List.range 40).flatMap fun k =>
            [⟨.data, (tw * 256 + pw).testBit (39 - k)⟩, ⟨.clock, true⟩, ⟨.clock, false⟩]) ++
          [⟨.strobe, true⟩, ⟨.strobe, false⟩] ∧
        t.lines = { s.lines with
          clock := .low, data := if pw % 2 = 1 then .high else .low, strobe := .low } ∧
        t.seqErr = (s.seqErr || decide (s.life ≠ .programmed)) ∧ t.life = s.life ∧ t.cmdErr = s.cmdErr ∧
        t.busy = false ∧ t.inputs = s.inputs

/-- Rule R105: POWER_DOWN. The frame: LIFE, CMD_ERR, the line RESET, and what the host does next. -/
def Obligations.PowerDownRuns : Prop :=
  (∀ w : CmdWord, w &&& 0xFFFFFFEF = 0x3 → decode w = .command .powerDown) ∧
    ∀ s : State, ∃ t, exec .powerDown s = .next t ∧
      t.trace = s.trace ++ [⟨.strobe, true⟩, ⟨.strobe, false⟩] ++
        ([false, false, true, false, false, false, false, false].flatMap fun b =>
          [⟨.data, b⟩, ⟨.clock, true⟩, ⟨.clock, false⟩]) ++
        [⟨.strobe, true⟩, ⟨.strobe, false⟩] ∧
      t.lines = { s.lines with clock := .low, data := .low, strobe := .low } ∧
      t.seqErr = (s.seqErr || decide (s.life ≠ .programmed)) ∧ t.life = s.life ∧ t.cmdErr = s.cmdErr ∧
      t.busy = false ∧ t.inputs = s.inputs

/-- Rules R108 and R109: RESET, whose tail is the events PROGRAM 0, 0 emits. The frame: CMD_ERR and what the host does
next. -/
def Obligations.ResetRuns : Prop :=
  (∀ w : CmdWord, w &&& 0xFFFFFFEF = 0x4 → decode w = .command .reset) ∧
    ∀ s : State, ∃ t u tail, exec .reset s = .next t ∧ exec (.program 0 0) s = .next u ∧
      u.trace = s.trace ++ tail ∧
      tail = (List.replicate 40 [⟨.data, false⟩, ⟨.clock, true⟩, ⟨.clock, false⟩]).flatten ++
        [⟨.strobe, true⟩, ⟨.strobe, false⟩] ∧
      t.trace = s.trace ++ [⟨.clock, true⟩, ⟨.clock, false⟩, ⟨.reset, true⟩, ⟨.reset, false⟩,
        ⟨.strobe, true⟩, ⟨.strobe, false⟩] ++ tail ∧
      t.lines = ⟨.low, .low, .low, .low⟩ ∧
      t.seqErr = (s.seqErr || decide (s.life = .uninit)) ∧ t.life = .programmed ∧ t.cmdErr = s.cmdErr ∧
      t.busy = false ∧ t.inputs = s.inputs

/-- Rules R111 and R112: INIT. The frame: SEQ_ERR, CMD_ERR and what the host does next. -/
def Obligations.InitRuns : Prop :=
  (∀ w : CmdWord, w &&& 0xFFFFFFEF = 0x5 → decode w = .command .init) ∧
    ∀ s : State, ∃ t, exec .init s = .next t ∧
      t.trace = s.trace ++ [⟨.clock, false⟩, ⟨.data, false⟩, ⟨.strobe, false⟩, ⟨.reset, false⟩] ∧
      sym t.trace = sym s.trace ∧
      t.lines = ⟨.low, .low, .low, .low⟩ ∧
      t.life = (if s.life = .uninit then .resetReady else s.life) ∧
      t.seqErr = s.seqErr ∧ t.cmdErr = s.cmdErr ∧ t.busy = false ∧ t.inputs = s.inputs

/-- What a command leaves in the hidden registers: its own operands in its own latches (rules R30, R85), the other latches
as they were (the model's choice, log entry 7), and IX at the end of its list (rule R31). -/
def Obligations.CommandsLeaveTheirLatches : Prop :=
  ∀ (i : Instr) (s : State), ∃ t, exec i s = .next t ∧
    match i with
    | .transmitBit b => t.opL = 0x1 ∧ t.bitL = b ∧ t.twL = s.twL ∧ t.pwL = s.pwL ∧ t.ix = 3
    | .program f p => t.opL = 0x2 ∧ t.bitL = s.bitL ∧ t.twL = tuningWord Config.refClkHz f ∧
        t.pwL = phaseWord p ∧ t.ix = 122
    | .powerDown => t.opL = 0x3 ∧ t.bitL = s.bitL ∧ t.twL = s.twL ∧ t.pwL = s.pwL ∧ t.ix = 28
    | .reset => t.opL = 0x4 ∧ t.bitL = s.bitL ∧ t.twL = s.twL ∧ t.pwL = s.pwL ∧ t.ix = 128
    | .init => t.opL = 0x5 ∧ t.bitL = s.bitL ∧ t.twL = s.twL ∧ t.pwL = s.pwL ∧ t.ix = 4

/-! Symbols and segments -/

/-- Rule R103: PROGRAM adds 122 events, which are 40 BIT symbols, FRAME40 in transmission order, and one STB, whatever its
operands. -/
def Obligations.ProgramSymbols : Prop :=
  ∀ (fRaw pRaw : Int) (s t : State), exec (.program fRaw pRaw) s = .next t →
    t.trace.length = s.trace.length + 122 ∧
      sym t.trace = sym s.trace ++
        ((bitsMsbFirst (frame40 (tuningWord Config.refClkHz fRaw) (phaseWord pRaw))).map fun b =>
          .bit (if b then .high else .low)) ++ [.stb] ∧
      ((sym t.trace).drop (sym s.trace).length).length = 41

/-- Rule R106: POWER_DOWN adds 28 events, which are STB, eight BIT symbols and STB, and ends with CLOCK, STROBE and DATA
at 0 and RESET as it was. -/
def Obligations.PowerDownSymbols : Prop :=
  ∀ s t : State, exec .powerDown s = .next t →
    t.trace.length = s.trace.length + 28 ∧
      sym t.trace = sym s.trace ++ [.stb, .bit .low, .bit .low, .bit .high, .bit .low, .bit .low, .bit .low,
        .bit .low, .bit .low, .stb] ∧
      t.lines = ⟨.low, .low, .low, s.lines.reset⟩

/-- Rule R110: RESET adds 128 events, which are BIT(d) with d DATA's level at acceptance, RST, STB, forty BIT(0) and STB,
and ends with the four lines at 0. -/
def Obligations.ResetSymbols : Prop :=
  ∀ s t : State, LinesFollowTrace s → exec .reset s = .next t →
    t.trace.length = s.trace.length + 128 ∧
      sym t.trace = sym s.trace ++ [.bit s.lines.data, .rst, .stb] ++ List.replicate 40 (.bit .low) ++ [.stb] ∧
      t.lines = ⟨.low, .low, .low, .low⟩

/-- Rules R82 and R147, in the segment view: PROGRAM commits the pending bits and its own 40 as one segment; POWER_DOWN
commits what was pending and then a segment of its 8 bits; TRANSMIT_BIT commits nothing and leaves its bit pending; INIT
adds nothing. Rules R61 and R108: RESET's prologue commits what was pending and the bit its CLOCK pulse clocks, DATA's level
at acceptance, as a segment with an RST in it, and its tail one of 40 zeros without. -/
def Obligations.CommandsCommitTheseSegments : Prop :=
  ∀ (s : State) (segs : List Segment) (bits : List Level) (saw : Bool), segments s.trace = (segs, ⟨bits, saw⟩) →
    (∀ fRaw pRaw t, exec (.program fRaw pRaw) s = .next t →
      segments t.trace = (segs ++ [⟨bits ++
        (bitsMsbFirst (frame40 (tuningWord Config.refClkHz fRaw) (phaseWord pRaw))).map
          (fun b => if b then .high else .low), saw⟩], ⟨[], false⟩)) ∧
      (∀ t, exec .powerDown s = .next t →
        segments t.trace = (segs ++ [⟨bits, saw⟩,
          ⟨[.low, .low, .high, .low, .low, .low, .low, .low], false⟩], ⟨[], false⟩)) ∧
      (∀ b t, exec (.transmitBit b) s = .next t →
        segments t.trace = (segs, ⟨bits ++ [if b then .high else .low], saw⟩)) ∧
      (∀ t, exec .init s = .next t → segments t.trace = (segs, ⟨bits, saw⟩)) ∧
      (∀ t, LinesFollowTrace s → exec .reset s = .next t →
        segments t.trace = (segs ++ [⟨bits ++ [s.lines.data], true⟩, ⟨List.replicate 40 .low, false⟩], ⟨[], false⟩))

/-! Lifecycle -/

/-- Rule R114: LIFE after each command and after an illegal word, cell by cell of the table; it takes its value at
acceptance and still has it when the command is complete. -/
def Obligations.LifeFollowsTheTable : Prop :=
  (∀ (i : Instr) (s t : State), exec i s = .next t ∨ t = acceptInstr i s →
    t.life =
      match i, s.life with
      | .init, .uninit => .resetReady
      | .init, .resetReady => .resetReady
      | .init, .programmed => .programmed
      | .reset, _ => .programmed
      | .program _ _, l => l
      | .powerDown, l => l
      | .transmitBit _, l => l) ∧
    ∀ (s t : State) (w : CmdWord) (why : IllegalCause), s.busy = false → s.inputs.head? = some (.offer w) →
      decode w = .illegal why → step s = .next t → t.life = s.life

/-- Rule R115: SEQ_ERR is set by exactly the commands the rule names, at acceptance, and otherwise keeps its value. -/
def Obligations.SeqErrFollowsTheRule : Prop :=
  ∀ (i : Instr) (s t : State), exec i s = .next t ∨ t = acceptInstr i s →
    (t.seqErr = true ↔ s.seqErr = true ∨
      ((i = .powerDown ∨ (∃ b, i = .transmitBit b) ∨ ∃ f p, i = .program f p) ∧ s.life ≠ .programmed) ∨
      (i = .reset ∧ s.life = .uninit))

/-- Rule R144: a host that offers INIT, RESET and then any commands in any number, to a ready block in UNINIT without a
sequencing error, never sets SEQ_ERR; the block ends in PROGRAMMED with every word consumed. -/
def Obligations.BootOrderNeverSetsSeqErr : Prop :=
  ∀ (is : List Instr) (s : State), (∀ i ∈ is, i.wellFormed = true) → s.busy = false → s.life = .uninit →
    s.seqErr = false → s.inputs = (.init :: .reset :: is).map (fun i => .offer (encode i)) →
      ∃ t, runSteps (is.length + 2) s = .next t ∧ t.seqErr = false ∧ t.life = .programmed ∧
        t.cmdErr = s.cmdErr ∧ t.busy = false ∧ t.inputs = []

/-! The port, the step and the order of commands -/

/-- A step runs the decoded instruction: with a legal word offered to a ready block, the step is `exec` of the command it
decodes to, with the offer consumed; and `withFetchWord` puts a table row's word there. -/
def Obligations.StepRunsTheDecodedInstruction : Prop :=
  (∀ (s : State) (w : CmdWord) (rest : List HostInput) (i : Instr), s.busy = false →
    s.inputs = .offer w :: rest → decode w = .command i → step s = exec i { s with inputs := rest }) ∧
    ∀ (s : State) (w : Nat) (i : Instr), s.busy = false → decodeTableWord 128 w = some i →
      step (s.withFetchWord 128 w) = exec i s

/-- Rules R52 and R53: words offered one after another run in that order, each one's events in one contiguous run, and
nothing else enters the trace. -/
def Obligations.CommandsRunInOrderWithoutOverlap : Prop :=
  ∀ (is : List Instr) (s : State), (∀ i ∈ is, i.wellFormed = true) → s.busy = false →
    s.inputs = is.map (fun i => .offer (encode i)) →
      ∃ t, runSteps is.length s = .next t ∧ t.trace = s.trace ++ is.flatMap commandEvents ∧ t.inputs = []

/-- Rule R25: the events a command emits are the same in every state: neither LIFE nor an error flag nor anything else of
the state changes them, so they depend on the command and REF_CLK_HZ alone. -/
def Obligations.EventsDependOnTheCommandAlone : Prop :=
  ∀ (i : Instr) (s t s' t' : State), exec i s = .next s' → exec i t = .next t' →
    ∃ evs, s'.trace = s.trace ++ evs ∧ t'.trace = t.trace ++ evs ∧ evs = commandEventsAt Config.refClkHz i

/-- Rule R59: a host that waits, polls or offers nothing changes nothing of a ready block, at either level. -/
def Obligations.WaitingChangesNothing : Prop :=
  ∀ s : State, s.busy = false →
    (s.inputs = [] → step s = .next s ∧ tick s = .next s) ∧
      ∀ (a : HostInput) (rest : List HostInput), a = .idle ∨ a = .awaitReady → s.inputs = a :: rest →
        step s = .next { s with inputs := rest } ∧ tick s = .next { s with inputs := rest }

/-- A command-level step that finds a command in progress emits what is left of it, in order, and the host's action waits
(rules R43, R53, R107; that the step does so is the model's choice, log entry 9). -/
def Obligations.BusyStepCompletesTheCommand : Prop :=
  ∀ s : State, s.busy = true → s.inputs.head? ≠ some .blockReset → (opOfCode s.opL).isSome = true →
    ∃ t, step s = .next t ∧ t.busy = false ∧ t.trace = s.trace ++ (latchedEvents s).drop s.ix.toNat ∧
      t.lines = writeLines s.lines ((latchedEvents s).drop s.ix.toNat) ∧
      t.life = s.life ∧ t.seqErr = s.seqErr ∧ t.cmdErr = s.cmdErr ∧ t.opL = s.opL ∧ t.twL = s.twL ∧
      t.pwL = s.pwL ∧ t.bitL = s.bitL ∧ t.inputs = s.inputs

/-- Rule R27: every bit of STATUS, and its value after reset. -/
def Obligations.StatusShowsItsFields : Prop :=
  status State.reset = 0 ∧
    ∀ s : State,
      (status s).getLsbD 0 = s.busy ∧
        (status s).extractLsb' 1 2 = (match s.life with
          | .uninit => 0b00#2
          | .resetReady => 0b01#2
          | .programmed => 0b10#2) ∧
        (status s).extractLsb' 1 2 ≠ 0b11#2 ∧
        (status s).getLsbD 3 = s.seqErr ∧ (status s).getLsbD 4 = s.cmdErr ∧
        (status s).extractLsb' 5 3 = 0#3

/-! The machine's invariant -/

/-- The invariant holds at reset. -/
def Obligations.ResetMeetsTheInvariant : Prop := Inv State.reset

/-- The invariant is kept by every step: the lines hold what the trace wrote, CLOCK, STROBE and RESET are 0 once INIT or
RESET has run, and the sequencer is in step with its list (rules R20, R22, R31, R33). -/
def Obligations.StepKeepsTheInvariant : Prop := ∀ s t : State, Inv s → step s = .next t → Inv t

/-- The invariant is kept by every tick, inside commands too. -/
def Obligations.TickKeepsTheInvariant : Prop := ∀ s t : State, Inv s → tick s = .next t → Inv t

/-- Rule R155: step is total. From a state that meets the invariant, a step and a tick always answer a next state. -/
def Obligations.BlockNeverStops : Prop :=
  ∀ s : State, Inv s → (∃ t, step s = .next t) ∧ ∃ t, tick s = .next t

/-- The one stop of the model (log entry 5): BUSY = 1 with no operation's number in OP_L, and no block reset. -/
def Obligations.StopOnlyOnAReservedLatch : Prop :=
  ∀ s : State,
    (step s = .fault .latchedOpReserved ↔
      s.inputs.head? ≠ some .blockReset ∧ s.busy = true ∧ (s.opL = 0 ∨ 6 ≤ s.opL.toNat)) ∧
      ∀ r, step s ≠ .refused r

/-- Rule R33: the trace only grows, until block reset: a step adds to its end, and a tick adds at most one event. -/
def Obligations.TraceOnlyGrows : Prop :=
  ∀ s t : State, s.inputs.head? ≠ some .blockReset →
    (step s = .next t → s.trace <+: t.trace) ∧
      (tick s = .next t → t.trace = s.trace ∨ ∃ e, t.trace = s.trace ++ [e])

/-! The tick level -/

/-- The tick level refines the command level: n * EVENT_TICKS + 1 ticks after a command of n events is offered to a ready
block, the block is in the very state the command-level step gives (rules R151, R152, R155), whatever the host does
meanwhile short of a block reset: only its idle ticks, which have passed, are gone from what it still has to do. -/
def Obligations.TicksRefineTheCommand : Prop :=
  ∀ (s : State) (w : CmdWord) (rest : List HostInput) (i : Instr), s.busy = false →
    s.inputs = .offer w :: rest → decode w = .command i → .blockReset ∉ rest →
      ∃ t u, ticks ((commandEvents i).length * Config.eventTicks + 1) s = .next t ∧
        exec i { s with inputs := rest } = .next u ∧ { t with inputs := rest } = u ∧
        (rest.head? ≠ some .idle → t = u)

/-- Rule R151: for a command accepted at tick t, event k takes effect at the start of tick t + 1 + k * E and holds for E
ticks, the lines at the levels written so far; BUSY is 1 on ticks t + 1 to t + n * E; the port is ready again at tick
t + n * E + 1, and after an illegal word at tick t + 1. LIFE and SEQ_ERR have the values of rules R114 and R115, and CMD_ERR
is as it was, from tick t + 1 on (rule R54). The host is free to do anything but reset the block. -/
def Obligations.EventsTakeEffectOnTheirTicks : Prop :=
  (∀ (s : State) (w : CmdWord) (rest : List HostInput) (i : Instr), s.busy = false →
    s.inputs = .offer w :: rest → decode w = .command i → .blockReset ∉ rest →
      let life : Life :=
        match i with
        | .transmitBit _ => s.life
        | .program _ _ => s.life
        | .powerDown => s.life
        | .reset => .programmed
        | .init => if s.life = .uninit then .resetReady else s.life
      let violation : Bool :=
        match i with
        | .transmitBit _ => decide (s.life ≠ .programmed)
        | .program _ _ => decide (s.life ≠ .programmed)
        | .powerDown => decide (s.life ≠ .programmed)
        | .reset => decide (s.life = .uninit)
        | .init => false
      (∀ k j : Nat, k < (commandEvents i).length → j < Config.eventTicks →
        ∃ t, ticks (1 + k * Config.eventTicks + j) s = .next t ∧
          t.trace = s.trace ++ (commandEvents i).take (k + 1) ∧
          t.lines = writeLines s.lines ((commandEvents i).take (k + 1)) ∧ t.busy = true ∧ cmdReady t = false ∧
          t.life = life ∧ t.seqErr = (s.seqErr || violation) ∧ t.cmdErr = s.cmdErr) ∧
      ∃ t, ticks ((commandEvents i).length * Config.eventTicks + 1) s = .next t ∧
        t.trace = s.trace ++ commandEvents i ∧ t.lines = writeLines s.lines (commandEvents i) ∧
        t.busy = false ∧ cmdReady t = true ∧
        t.life = life ∧ t.seqErr = (s.seqErr || violation) ∧ t.cmdErr = s.cmdErr) ∧
    ∀ (s : State) (w : CmdWord) (rest : List HostInput) (why : IllegalCause), s.busy = false →
      s.inputs = .offer w :: rest → decode w = .illegal why → ∃ t, tick s = .next t ∧ cmdReady t = true

/-- Rules R43 and R57: while a command runs, what the host presents has no effect on it: two busy states that differ only
in the host's further actions, none of them a block reset, take the same tick; and an offered word stays offered. -/
def Obligations.PortIsIgnoredWhileBusy : Prop :=
  ∀ (s t u : State) (ins ins' : List HostInput), s.busy = true →
    ins.head? ≠ some .blockReset → ins'.head? ≠ some .blockReset →
    tick { s with inputs := ins } = .next t → tick { s with inputs := ins' } = .next u →
      { t with inputs := [] } = { u with inputs := [] } ∧
        ∀ w rest, ins = .offer w :: rest → t.inputs = ins

/-- Rule R32: the reference datapath drives exactly the event list of every command, in order: after the first k events the
event it drives next is the k-th of the list, and after the last it drives none. What rule R32 leaves open of the
datapath is the model's choice (log entry 8). -/
def Obligations.DatapathDrivesTheEventList : Prop :=
  ∀ (i : Instr) (s : State) (k : Nat), k ≤ (commandEvents i).length →
    datapathEvent i.op (runEvents ((commandEvents i).take k) (acceptInstr i s)).ix
        (runEvents ((commandEvents i).take k) (acceptInstr i s)).dp =
      (commandEvents i)[k]?

/-! The host's sweeps and the assembler -/

/-- Rules R120 and R121: sweep_up and sweep_down program only values from min to max, bounds included, when the step is not
negative, and an iteration changes cur alone, so the next one meets the same premises. -/
def Obligations.PlainSweepsStayInRange : Prop :=
  ∀ s : SweepState, s.variant = .up ∨ s.variant = .down → 0 ≤ s.step → s.min ≤ s.max →
    s.min ≤ s.cur → s.cur ≤ s.max →
      s.min ≤ (sweepNext s).cur ∧ (sweepNext s).cur ≤ s.max ∧
        sweepNext s = { s with
          cur := match s.variant with
            | .up => if s.cur + s.step ≤ s.max then s.cur + s.step else s.min
            | .down => if s.min ≤ s.cur - s.step then s.cur - s.step else s.max
            | .loop => s.cur }

/-- Rules R122 and R123: sweep_loop passes a bound by at most one step and turns there: where the value is past a bound its
increment points back. An iteration changes cur and inc alone and keeps all this. The spec says "less than one step"; its own vector 2.10 meets the bound
exactly. -/
def Obligations.LoopSweepOvershootsAtMostOneStep : Prop :=
  ∀ (s : SweepState) (d : Int), s.variant = .loop → 0 < d → s.min ≤ s.max → (s.inc = d ∨ s.inc = -d) →
    s.min - d ≤ s.cur → s.cur ≤ s.max + d → (s.max < s.cur → s.inc = -d) → (s.cur < s.min → s.inc = d) →
      let t := sweepNext s
      t = { s with cur := s.cur + s.inc, inc := t.inc } ∧ (t.inc = d ∨ t.inc = -d) ∧ s.min - d ≤ t.cur ∧ t.cur ≤ s.max + d ∧
        (s.max < t.cur → t.inc = -d) ∧ (t.cur < s.min → t.inc = d)

/-- Rule R125: a sweep step issues one word, which decodes to PROGRAM(cur, 0), or none where cur has no encoding. -/
def Obligations.SweepStepIssuesOneProgram : Prop :=
  ∀ s : SweepState,
    (-2 ^ 63 ≤ s.cur ∧ s.cur < 2 ^ 63 →
      ∃ w, sweepStep s = some (w, sweepNext s) ∧ decode w = .command (.program s.cur 0)) ∧
      (s.cur < -2 ^ 63 ∨ 2 ^ 63 ≤ s.cur → sweepStep s = none)

/-- Rule R83: PROGRAM's literals are assembled exactly or refused. A pair of decimals has a word exactly when both are whole
numbers of units in range, and then it is the word of those numbers. -/
def Obligations.AssemblerIsExactOrRefuses : Prop :=
  ∀ (f p : Decimal) (fNum pNum : Int),
    fNum = (if f.negative then -(f.digits : Int) else f.digits) →
    pNum = (if p.negative then -(p.digits : Int) else p.digits) →
      (∀ fRaw pRaw : Int, fRaw * 10 ^ f.places = fNum * 0x100000000 → pRaw * 10 ^ p.places = pNum * 0x10000 →
        FreqInRange fRaw → PhaseInRange pRaw →
          assembleLine (.program f p) = .words [encode (.program fRaw pRaw)]) ∧
        ((∀ fRaw pRaw : Int, fRaw * 10 ^ f.places = fNum * 0x100000000 → pRaw * 10 ^ p.places = pNum * 0x10000 →
          FreqInRange fRaw → ¬PhaseInRange pRaw) →
            assembleLine (.program f p) = .refused .notRepresentable)
end

