-- ==== Sys2Proof/Laws/Decode.lean ====
section
/-! SUPPORT. The fields of a packed command word, each read back once for every use. -/

namespace Sys2Proof

/-- Every bit of a packed word comes from the field rule R63 gives it. -/
theorem getLsbD_packWord (freq : BitVec 64) (phase : BitVec 32) (rsv : BitVec 27) (bit : Bool) (op : BitVec 4)
    (k : Nat) :
    (packWord freq phase rsv bit op).getLsbD k =
      if k < 4 then op.getLsbD k
      else if k < 5 then bit
      else if k < 32 then rsv.getLsbD (k - 5)
      else if k < 64 then phase.getLsbD (k - 32)
      else freq.getLsbD (k - 64) := by
  unfold packWord
  rw [BitVec.getLsbD_append (n := 124) (m := 4), BitVec.getLsbD_append (n := 123) (m := 1),
    BitVec.getLsbD_append (n := 96) (m := 27), BitVec.getLsbD_append (n := 64) (m := 32)]
  simp only [Nat.sub_sub]
  by_cases h4 : k < 4
  · simp [h4]
  by_cases h5 : k < 5
  · obtain rfl : k = 4 := by omega
    simp
  have e5 : ¬k - 4 < 1 := by omega
  by_cases h32 : k < 32
  · have : k - (4 + 1) < 27 := by omega
    simp only [h4, h5, e5, h32, this, if_false, if_true]
  have e32 : ¬k - (4 + 1) < 27 := by omega
  by_cases h64 : k < 64
  · have : k - (4 + 1 + 27) < 32 := by omega
    simp only [h4, h5, e5, h32, e32, h64, this, if_false, if_true]
  · have : ¬k - (4 + 1 + 27) < 32 := by omega
    simp only [h4, h5, e5, h32, e32, h64, this, if_false]

variable (freq : BitVec 64) (phase : BitVec 32) (rsv : BitVec 27) (bit : Bool) (op : BitVec 4)

@[simp] theorem wordOp_packWord : wordOp (packWord freq phase rsv bit op) = op := by
  apply BitVec.eq_of_getLsbD_eq
  intro k hk
  simp [wordOp, getLsbD_packWord, hk]

@[simp] theorem wordBit_packWord : wordBit (packWord freq phase rsv bit op) = bit := by
  rw [wordBit, getLsbD_packWord, if_neg (by omega), if_pos (by omega)]

@[simp] theorem wordRsv_packWord : wordRsv (packWord freq phase rsv bit op) = rsv := by
  apply BitVec.eq_of_getLsbD_eq
  intro k hk
  have h4 : ¬5 + k < 4 := by omega
  have h5 : ¬5 + k < 5 := by omega
  have h32 : 5 + k < 32 := by omega
  simp [wordRsv, getLsbD_packWord, hk, h4, h5, h32]

@[simp] theorem wordPhase_packWord : wordPhase (packWord freq phase rsv bit op) = phase := by
  apply BitVec.eq_of_getLsbD_eq
  intro k hk
  have h4 : ¬32 + k < 4 := by omega
  have h5 : ¬32 + k < 5 := by omega
  have h32 : ¬32 + k < 32 := by omega
  have h64 : 32 + k < 64 := by omega
  simp [wordPhase, getLsbD_packWord, hk, h4, h5, h64]

@[simp] theorem wordFreq_packWord : wordFreq (packWord freq phase rsv bit op) = freq := by
  apply BitVec.eq_of_getLsbD_eq
  intro k hk
  have h4 : ¬64 + k < 4 := by omega
  have h5 : ¬64 + k < 5 := by omega
  have h32 : ¬64 + k < 32 := by omega
  have h64 : ¬64 + k < 64 := by omega
  simp [wordFreq, getLsbD_packWord, hk, h4, h5, h32, h64]

end Sys2Proof
end

