-- ==== Sys2Proof/Laws/State.lean ====
section
/-! SUPPORT. One lemma per field per update of the state, each true by rfl, so that no later proof unfolds a record
update. -/

namespace Sys2Proof.Machine

variable (s : State)


/-! The fields of `setLine`. -/

@[simp] theorem setLine_lines (e : Event) : (setLine e s).lines = writeLine s.lines e := rfl
@[simp] theorem setLine_life (e : Event) : (setLine e s).life = s.life := rfl
@[simp] theorem setLine_seqErr (e : Event) : (setLine e s).seqErr = s.seqErr := rfl
@[simp] theorem setLine_cmdErr (e : Event) : (setLine e s).cmdErr = s.cmdErr := rfl
@[simp] theorem setLine_busy (e : Event) : (setLine e s).busy = s.busy := rfl
@[simp] theorem setLine_ix (e : Event) : (setLine e s).ix = s.ix := rfl
@[simp] theorem setLine_opL (e : Event) : (setLine e s).opL = s.opL := rfl
@[simp] theorem setLine_twL (e : Event) : (setLine e s).twL = s.twL := rfl
@[simp] theorem setLine_pwL (e : Event) : (setLine e s).pwL = s.pwL := rfl
@[simp] theorem setLine_bitL (e : Event) : (setLine e s).bitL = s.bitL := rfl
@[simp] theorem setLine_dp (e : Event) : (setLine e s).dp = s.dp := rfl
@[simp] theorem setLine_hold (e : Event) : (setLine e s).hold = s.hold := rfl
@[simp] theorem setLine_trace (e : Event) : (setLine e s).trace = s.trace ++ [e] := rfl
@[simp] theorem setLine_inputs (e : Event) : (setLine e s).inputs = s.inputs := rfl

/-! The fields of `accept`. -/

@[simp] theorem accept_lines (op : Op) : (accept op s).lines = s.lines := rfl
@[simp] theorem accept_life (op : Op) : (accept op s).life = nextLife op s.life := rfl
@[simp] theorem accept_seqErr (op : Op) : (accept op s).seqErr = (s.seqErr || violates op s.life) := rfl
@[simp] theorem accept_cmdErr (op : Op) : (accept op s).cmdErr = s.cmdErr := rfl
@[simp] theorem accept_busy (op : Op) : (accept op s).busy = true := rfl
@[simp] theorem accept_ix (op : Op) : (accept op s).ix = 0 := rfl
@[simp] theorem accept_opL (op : Op) : (accept op s).opL = opCode op := rfl
@[simp] theorem accept_twL (op : Op) : (accept op s).twL = s.twL := rfl
@[simp] theorem accept_pwL (op : Op) : (accept op s).pwL = s.pwL := rfl
@[simp] theorem accept_bitL (op : Op) : (accept op s).bitL = s.bitL := rfl
@[simp] theorem accept_dp (op : Op) : (accept op s).dp = s.dp := rfl
@[simp] theorem accept_hold (op : Op) : (accept op s).hold = s.hold := rfl
@[simp] theorem accept_trace (op : Op) : (accept op s).trace = s.trace := rfl
@[simp] theorem accept_inputs (op : Op) : (accept op s).inputs = s.inputs := rfl

/-! The fields of `loadLatched`. -/

@[simp] theorem loadLatched_lines (op : Op) : (loadLatched op s).lines = s.lines := rfl
@[simp] theorem loadLatched_life (op : Op) : (loadLatched op s).life = s.life := rfl
@[simp] theorem loadLatched_seqErr (op : Op) : (loadLatched op s).seqErr = s.seqErr := rfl
@[simp] theorem loadLatched_cmdErr (op : Op) : (loadLatched op s).cmdErr = s.cmdErr := rfl
@[simp] theorem loadLatched_busy (op : Op) : (loadLatched op s).busy = s.busy := rfl
@[simp] theorem loadLatched_ix (op : Op) : (loadLatched op s).ix = s.ix := rfl
@[simp] theorem loadLatched_opL (op : Op) : (loadLatched op s).opL = s.opL := rfl
@[simp] theorem loadLatched_twL (op : Op) : (loadLatched op s).twL = s.twL := rfl
@[simp] theorem loadLatched_pwL (op : Op) : (loadLatched op s).pwL = s.pwL := rfl
@[simp] theorem loadLatched_bitL (op : Op) : (loadLatched op s).bitL = s.bitL := rfl
@[simp] theorem loadLatched_dp (op : Op) : (loadLatched op s).dp = loadDatapath op s.twL s.pwL s.bitL := rfl
@[simp] theorem loadLatched_hold (op : Op) : (loadLatched op s).hold = s.hold := rfl
@[simp] theorem loadLatched_trace (op : Op) : (loadLatched op s).trace = s.trace := rfl
@[simp] theorem loadLatched_inputs (op : Op) : (loadLatched op s).inputs = s.inputs := rfl

/-! The fields of `emit`. -/

@[simp] theorem emit_lines (e : Event) : (emit s e).lines = writeLine s.lines e := rfl
@[simp] theorem emit_life (e : Event) : (emit s e).life = s.life := rfl
@[simp] theorem emit_seqErr (e : Event) : (emit s e).seqErr = s.seqErr := rfl
@[simp] theorem emit_cmdErr (e : Event) : (emit s e).cmdErr = s.cmdErr := rfl
@[simp] theorem emit_busy (e : Event) : (emit s e).busy = s.busy := rfl
@[simp] theorem emit_ix (e : Event) : (emit s e).ix = s.ix + 1 := rfl
@[simp] theorem emit_opL (e : Event) : (emit s e).opL = s.opL := rfl
@[simp] theorem emit_twL (e : Event) : (emit s e).twL = s.twL := rfl
@[simp] theorem emit_pwL (e : Event) : (emit s e).pwL = s.pwL := rfl
@[simp] theorem emit_bitL (e : Event) : (emit s e).bitL = s.bitL := rfl
@[simp] theorem emit_dp (e : Event) : (emit s e).dp = stepDatapath s := rfl
@[simp] theorem emit_hold (e : Event) : (emit s e).hold = s.hold := rfl
@[simp] theorem emit_trace (e : Event) : (emit s e).trace = s.trace ++ [e] := rfl
@[simp] theorem emit_inputs (e : Event) : (emit s e).inputs = s.inputs := rfl

/-! The fields of `complete`. -/

@[simp] theorem complete_lines : (complete s).lines = s.lines := rfl
@[simp] theorem complete_life : (complete s).life = s.life := rfl
@[simp] theorem complete_seqErr : (complete s).seqErr = s.seqErr := rfl
@[simp] theorem complete_cmdErr : (complete s).cmdErr = s.cmdErr := rfl
@[simp] theorem complete_busy : (complete s).busy = false := rfl
@[simp] theorem complete_ix : (complete s).ix = s.ix := rfl
@[simp] theorem complete_opL : (complete s).opL = s.opL := rfl
@[simp] theorem complete_twL : (complete s).twL = s.twL := rfl
@[simp] theorem complete_pwL : (complete s).pwL = s.pwL := rfl
@[simp] theorem complete_bitL : (complete s).bitL = s.bitL := rfl
@[simp] theorem complete_dp : (complete s).dp = s.dp := rfl
@[simp] theorem complete_hold : (complete s).hold = 0 := rfl
@[simp] theorem complete_trace : (complete s).trace = s.trace := rfl
@[simp] theorem complete_inputs : (complete s).inputs = s.inputs := rfl

/-! The fields of `illegalCommand`. -/

@[simp] theorem illegalCommand_lines : (illegalCommand s).lines = s.lines := rfl
@[simp] theorem illegalCommand_life : (illegalCommand s).life = s.life := rfl
@[simp] theorem illegalCommand_seqErr : (illegalCommand s).seqErr = s.seqErr := rfl
@[simp] theorem illegalCommand_cmdErr : (illegalCommand s).cmdErr = true := rfl
@[simp] theorem illegalCommand_busy : (illegalCommand s).busy = s.busy := rfl
@[simp] theorem illegalCommand_ix : (illegalCommand s).ix = s.ix := rfl
@[simp] theorem illegalCommand_opL : (illegalCommand s).opL = s.opL := rfl
@[simp] theorem illegalCommand_twL : (illegalCommand s).twL = s.twL := rfl
@[simp] theorem illegalCommand_pwL : (illegalCommand s).pwL = s.pwL := rfl
@[simp] theorem illegalCommand_bitL : (illegalCommand s).bitL = s.bitL := rfl
@[simp] theorem illegalCommand_dp : (illegalCommand s).dp = s.dp := rfl
@[simp] theorem illegalCommand_hold : (illegalCommand s).hold = s.hold := rfl
@[simp] theorem illegalCommand_trace : (illegalCommand s).trace = s.trace := rfl
@[simp] theorem illegalCommand_inputs : (illegalCommand s).inputs = s.inputs := rfl

/-! The fields of `blockReset`. -/

@[simp] theorem blockReset_lines : (blockReset s).lines = State.reset.lines := rfl
@[simp] theorem blockReset_life : (blockReset s).life = State.reset.life := rfl
@[simp] theorem blockReset_seqErr : (blockReset s).seqErr = State.reset.seqErr := rfl
@[simp] theorem blockReset_cmdErr : (blockReset s).cmdErr = State.reset.cmdErr := rfl
@[simp] theorem blockReset_busy : (blockReset s).busy = State.reset.busy := rfl
@[simp] theorem blockReset_ix : (blockReset s).ix = State.reset.ix := rfl
@[simp] theorem blockReset_opL : (blockReset s).opL = State.reset.opL := rfl
@[simp] theorem blockReset_twL : (blockReset s).twL = State.reset.twL := rfl
@[simp] theorem blockReset_pwL : (blockReset s).pwL = State.reset.pwL := rfl
@[simp] theorem blockReset_bitL : (blockReset s).bitL = State.reset.bitL := rfl
@[simp] theorem blockReset_dp : (blockReset s).dp = State.reset.dp := rfl
@[simp] theorem blockReset_hold : (blockReset s).hold = State.reset.hold := rfl
@[simp] theorem blockReset_trace : (blockReset s).trace = State.reset.trace := rfl
@[simp] theorem blockReset_inputs : (blockReset s).inputs = s.inputs := rfl

/-! The fields of `consume`. -/

@[simp] theorem consume_lines : (consume s).lines = s.lines := rfl
@[simp] theorem consume_life : (consume s).life = s.life := rfl
@[simp] theorem consume_seqErr : (consume s).seqErr = s.seqErr := rfl
@[simp] theorem consume_cmdErr : (consume s).cmdErr = s.cmdErr := rfl
@[simp] theorem consume_busy : (consume s).busy = s.busy := rfl
@[simp] theorem consume_ix : (consume s).ix = s.ix := rfl
@[simp] theorem consume_opL : (consume s).opL = s.opL := rfl
@[simp] theorem consume_twL : (consume s).twL = s.twL := rfl
@[simp] theorem consume_pwL : (consume s).pwL = s.pwL := rfl
@[simp] theorem consume_bitL : (consume s).bitL = s.bitL := rfl
@[simp] theorem consume_dp : (consume s).dp = s.dp := rfl
@[simp] theorem consume_hold : (consume s).hold = s.hold := rfl
@[simp] theorem consume_trace : (consume s).trace = s.trace := rfl
@[simp] theorem consume_inputs : (consume s).inputs = s.inputs.tail := rfl

/-! The fields of `offerWord`. -/

@[simp] theorem offerWord_lines (nbits w : Nat) : (offerWord s nbits w).lines = s.lines := rfl
@[simp] theorem offerWord_life (nbits w : Nat) : (offerWord s nbits w).life = s.life := rfl
@[simp] theorem offerWord_seqErr (nbits w : Nat) : (offerWord s nbits w).seqErr = s.seqErr := rfl
@[simp] theorem offerWord_cmdErr (nbits w : Nat) : (offerWord s nbits w).cmdErr = s.cmdErr := rfl
@[simp] theorem offerWord_busy (nbits w : Nat) : (offerWord s nbits w).busy = false := rfl
@[simp] theorem offerWord_ix (nbits w : Nat) : (offerWord s nbits w).ix = s.ix := rfl
@[simp] theorem offerWord_opL (nbits w : Nat) : (offerWord s nbits w).opL = s.opL := rfl
@[simp] theorem offerWord_twL (nbits w : Nat) : (offerWord s nbits w).twL = s.twL := rfl
@[simp] theorem offerWord_pwL (nbits w : Nat) : (offerWord s nbits w).pwL = s.pwL := rfl
@[simp] theorem offerWord_bitL (nbits w : Nat) : (offerWord s nbits w).bitL = s.bitL := rfl
@[simp] theorem offerWord_dp (nbits w : Nat) : (offerWord s nbits w).dp = s.dp := rfl
@[simp] theorem offerWord_hold (nbits w : Nat) : (offerWord s nbits w).hold = s.hold := rfl
@[simp] theorem offerWord_trace (nbits w : Nat) : (offerWord s nbits w).trace = s.trace := rfl
@[simp] theorem offerWord_inputs (nbits w : Nat) : (offerWord s nbits w).inputs = .offer (BitVec.ofNat 128 (w % 2 ^ nbits)) :: s.inputs := rfl

/-! The fields of `acceptTransmitBit`. -/

@[simp] theorem acceptTransmitBit_lines (b : Bool) : (acceptTransmitBit b s).lines = s.lines := rfl
@[simp] theorem acceptTransmitBit_life (b : Bool) : (acceptTransmitBit b s).life = nextLife .transmitBit s.life := rfl
@[simp] theorem acceptTransmitBit_seqErr (b : Bool) : (acceptTransmitBit b s).seqErr = (s.seqErr || violates .transmitBit s.life) := rfl
@[simp] theorem acceptTransmitBit_cmdErr (b : Bool) : (acceptTransmitBit b s).cmdErr = s.cmdErr := rfl
@[simp] theorem acceptTransmitBit_busy (b : Bool) : (acceptTransmitBit b s).busy = true := rfl
@[simp] theorem acceptTransmitBit_ix (b : Bool) : (acceptTransmitBit b s).ix = 0 := rfl
@[simp] theorem acceptTransmitBit_opL (b : Bool) : (acceptTransmitBit b s).opL = opCode .transmitBit := rfl
@[simp] theorem acceptTransmitBit_twL (b : Bool) : (acceptTransmitBit b s).twL = s.twL := rfl
@[simp] theorem acceptTransmitBit_pwL (b : Bool) : (acceptTransmitBit b s).pwL = s.pwL := rfl
@[simp] theorem acceptTransmitBit_bitL (b : Bool) : (acceptTransmitBit b s).bitL = b := rfl
@[simp] theorem acceptTransmitBit_dp (b : Bool) : (acceptTransmitBit b s).dp = loadDatapath .transmitBit s.twL s.pwL b := rfl
@[simp] theorem acceptTransmitBit_hold (b : Bool) : (acceptTransmitBit b s).hold = s.hold := rfl
@[simp] theorem acceptTransmitBit_trace (b : Bool) : (acceptTransmitBit b s).trace = s.trace := rfl
@[simp] theorem acceptTransmitBit_inputs (b : Bool) : (acceptTransmitBit b s).inputs = s.inputs := rfl

/-! The fields of `acceptProgramAt`. -/

@[simp] theorem acceptProgramAt_lines (refHz : Nat) (fRaw pRaw : Int) : (acceptProgramAt refHz fRaw pRaw s).lines = s.lines := rfl
@[simp] theorem acceptProgramAt_life (refHz : Nat) (fRaw pRaw : Int) : (acceptProgramAt refHz fRaw pRaw s).life = nextLife .program s.life := rfl
@[simp] theorem acceptProgramAt_seqErr (refHz : Nat) (fRaw pRaw : Int) : (acceptProgramAt refHz fRaw pRaw s).seqErr = (s.seqErr || violates .program s.life) := rfl
@[simp] theorem acceptProgramAt_cmdErr (refHz : Nat) (fRaw pRaw : Int) : (acceptProgramAt refHz fRaw pRaw s).cmdErr = s.cmdErr := rfl
@[simp] theorem acceptProgramAt_busy (refHz : Nat) (fRaw pRaw : Int) : (acceptProgramAt refHz fRaw pRaw s).busy = true := rfl
@[simp] theorem acceptProgramAt_ix (refHz : Nat) (fRaw pRaw : Int) : (acceptProgramAt refHz fRaw pRaw s).ix = 0 := rfl
@[simp] theorem acceptProgramAt_opL (refHz : Nat) (fRaw pRaw : Int) : (acceptProgramAt refHz fRaw pRaw s).opL = opCode .program := rfl
@[simp] theorem acceptProgramAt_twL (refHz : Nat) (fRaw pRaw : Int) : (acceptProgramAt refHz fRaw pRaw s).twL = tuningWord refHz fRaw := rfl
@[simp] theorem acceptProgramAt_pwL (refHz : Nat) (fRaw pRaw : Int) : (acceptProgramAt refHz fRaw pRaw s).pwL = phaseWord pRaw := rfl
@[simp] theorem acceptProgramAt_bitL (refHz : Nat) (fRaw pRaw : Int) : (acceptProgramAt refHz fRaw pRaw s).bitL = s.bitL := rfl
@[simp] theorem acceptProgramAt_dp (refHz : Nat) (fRaw pRaw : Int) : (acceptProgramAt refHz fRaw pRaw s).dp = loadDatapath .program (tuningWord refHz fRaw) (phaseWord pRaw) s.bitL := rfl
@[simp] theorem acceptProgramAt_hold (refHz : Nat) (fRaw pRaw : Int) : (acceptProgramAt refHz fRaw pRaw s).hold = s.hold := rfl
@[simp] theorem acceptProgramAt_trace (refHz : Nat) (fRaw pRaw : Int) : (acceptProgramAt refHz fRaw pRaw s).trace = s.trace := rfl
@[simp] theorem acceptProgramAt_inputs (refHz : Nat) (fRaw pRaw : Int) : (acceptProgramAt refHz fRaw pRaw s).inputs = s.inputs := rfl

/-! The fields of `acceptProgram`. -/

@[simp] theorem acceptProgram_lines (fRaw pRaw : Int) : (acceptProgram fRaw pRaw s).lines = s.lines := rfl
@[simp] theorem acceptProgram_life (fRaw pRaw : Int) : (acceptProgram fRaw pRaw s).life = nextLife .program s.life := rfl
@[simp] theorem acceptProgram_seqErr (fRaw pRaw : Int) : (acceptProgram fRaw pRaw s).seqErr = (s.seqErr || violates .program s.life) := rfl
@[simp] theorem acceptProgram_cmdErr (fRaw pRaw : Int) : (acceptProgram fRaw pRaw s).cmdErr = s.cmdErr := rfl
@[simp] theorem acceptProgram_busy (fRaw pRaw : Int) : (acceptProgram fRaw pRaw s).busy = true := rfl
@[simp] theorem acceptProgram_ix (fRaw pRaw : Int) : (acceptProgram fRaw pRaw s).ix = 0 := rfl
@[simp] theorem acceptProgram_opL (fRaw pRaw : Int) : (acceptProgram fRaw pRaw s).opL = opCode .program := rfl
@[simp] theorem acceptProgram_twL (fRaw pRaw : Int) : (acceptProgram fRaw pRaw s).twL = tuningWord Config.refClkHz fRaw := rfl
@[simp] theorem acceptProgram_pwL (fRaw pRaw : Int) : (acceptProgram fRaw pRaw s).pwL = phaseWord pRaw := rfl
@[simp] theorem acceptProgram_bitL (fRaw pRaw : Int) : (acceptProgram fRaw pRaw s).bitL = s.bitL := rfl
@[simp] theorem acceptProgram_dp (fRaw pRaw : Int) : (acceptProgram fRaw pRaw s).dp = loadDatapath .program (tuningWord Config.refClkHz fRaw) (phaseWord pRaw) s.bitL := rfl
@[simp] theorem acceptProgram_hold (fRaw pRaw : Int) : (acceptProgram fRaw pRaw s).hold = s.hold := rfl
@[simp] theorem acceptProgram_trace (fRaw pRaw : Int) : (acceptProgram fRaw pRaw s).trace = s.trace := rfl
@[simp] theorem acceptProgram_inputs (fRaw pRaw : Int) : (acceptProgram fRaw pRaw s).inputs = s.inputs := rfl

/-! The fields of `acceptPowerDown`. -/

@[simp] theorem acceptPowerDown_lines : (acceptPowerDown s).lines = s.lines := rfl
@[simp] theorem acceptPowerDown_life : (acceptPowerDown s).life = nextLife .powerDown s.life := rfl
@[simp] theorem acceptPowerDown_seqErr : (acceptPowerDown s).seqErr = (s.seqErr || violates .powerDown s.life) := rfl
@[simp] theorem acceptPowerDown_cmdErr : (acceptPowerDown s).cmdErr = s.cmdErr := rfl
@[simp] theorem acceptPowerDown_busy : (acceptPowerDown s).busy = true := rfl
@[simp] theorem acceptPowerDown_ix : (acceptPowerDown s).ix = 0 := rfl
@[simp] theorem acceptPowerDown_opL : (acceptPowerDown s).opL = opCode .powerDown := rfl
@[simp] theorem acceptPowerDown_twL : (acceptPowerDown s).twL = s.twL := rfl
@[simp] theorem acceptPowerDown_pwL : (acceptPowerDown s).pwL = s.pwL := rfl
@[simp] theorem acceptPowerDown_bitL : (acceptPowerDown s).bitL = s.bitL := rfl
@[simp] theorem acceptPowerDown_dp : (acceptPowerDown s).dp = loadDatapath .powerDown s.twL s.pwL s.bitL := rfl
@[simp] theorem acceptPowerDown_hold : (acceptPowerDown s).hold = s.hold := rfl
@[simp] theorem acceptPowerDown_trace : (acceptPowerDown s).trace = s.trace := rfl
@[simp] theorem acceptPowerDown_inputs : (acceptPowerDown s).inputs = s.inputs := rfl

/-! The fields of `acceptReset`. -/

@[simp] theorem acceptReset_lines : (acceptReset s).lines = s.lines := rfl
@[simp] theorem acceptReset_life : (acceptReset s).life = nextLife .reset s.life := rfl
@[simp] theorem acceptReset_seqErr : (acceptReset s).seqErr = (s.seqErr || violates .reset s.life) := rfl
@[simp] theorem acceptReset_cmdErr : (acceptReset s).cmdErr = s.cmdErr := rfl
@[simp] theorem acceptReset_busy : (acceptReset s).busy = true := rfl
@[simp] theorem acceptReset_ix : (acceptReset s).ix = 0 := rfl
@[simp] theorem acceptReset_opL : (acceptReset s).opL = opCode .reset := rfl
@[simp] theorem acceptReset_twL : (acceptReset s).twL = s.twL := rfl
@[simp] theorem acceptReset_pwL : (acceptReset s).pwL = s.pwL := rfl
@[simp] theorem acceptReset_bitL : (acceptReset s).bitL = s.bitL := rfl
@[simp] theorem acceptReset_dp : (acceptReset s).dp = loadDatapath .reset s.twL s.pwL s.bitL := rfl
@[simp] theorem acceptReset_hold : (acceptReset s).hold = s.hold := rfl
@[simp] theorem acceptReset_trace : (acceptReset s).trace = s.trace := rfl
@[simp] theorem acceptReset_inputs : (acceptReset s).inputs = s.inputs := rfl

/-! The fields of `acceptInit`. -/

@[simp] theorem acceptInit_lines : (acceptInit s).lines = s.lines := rfl
@[simp] theorem acceptInit_life : (acceptInit s).life = nextLife .init s.life := rfl
@[simp] theorem acceptInit_seqErr : (acceptInit s).seqErr = (s.seqErr || violates .init s.life) := rfl
@[simp] theorem acceptInit_cmdErr : (acceptInit s).cmdErr = s.cmdErr := rfl
@[simp] theorem acceptInit_busy : (acceptInit s).busy = true := rfl
@[simp] theorem acceptInit_ix : (acceptInit s).ix = 0 := rfl
@[simp] theorem acceptInit_opL : (acceptInit s).opL = opCode .init := rfl
@[simp] theorem acceptInit_twL : (acceptInit s).twL = s.twL := rfl
@[simp] theorem acceptInit_pwL : (acceptInit s).pwL = s.pwL := rfl
@[simp] theorem acceptInit_bitL : (acceptInit s).bitL = s.bitL := rfl
@[simp] theorem acceptInit_dp : (acceptInit s).dp = loadDatapath .init s.twL s.pwL s.bitL := rfl
@[simp] theorem acceptInit_hold : (acceptInit s).hold = s.hold := rfl
@[simp] theorem acceptInit_trace : (acceptInit s).trace = s.trace := rfl
@[simp] theorem acceptInit_inputs : (acceptInit s).inputs = s.inputs := rfl

end Sys2Proof.Machine
end

