-- ==== Sys2Proof/Laws/Ops.lean ====
section
/-! SUPPORT. What each shared operation can do, said once: the lemmas a proof about a command cites. -/

namespace Sys2Proof.Machine

/-! The configuration. -/

theorem refClkHz_pos : 1 ≤ Config.refClkHz := Config.refClk.pos

theorem eventTicks_pos : 1 ≤ Config.eventTicks := Config.eventHold.pos

/-! The opcode map. -/

@[simp] theorem opOfCode_opCode (op : Op) : opOfCode (opCode op) = some op := by cases op <;> rfl

theorem opCode_of_opOfCode {c : BitVec 4} {op : Op} (h : opOfCode c = some op) : opCode op = c := by
  revert h; revert c; cases op <;> decide

/-! Lines and traces. -/

@[simp] theorem writeLines_nil (ls : Lines) : writeLines ls [] = ls := rfl

@[simp] theorem writeLines_cons (ls : Lines) (e : Event) (es : List Event) :
    writeLines ls (e :: es) = writeLines (writeLine ls e) es := rfl

@[simp] theorem writeLines_append (ls : Lines) (es fs : List Event) :
    writeLines ls (es ++ fs) = writeLines (writeLines ls es) fs := List.foldl_append ..

/-! Running events: the lines, the trace, IX and the datapath move, and nothing else. -/

@[simp] theorem runEvents_nil (s : State) : runEvents [] s = s := rfl

@[simp] theorem runEvents_cons (e : Event) (es : List Event) (s : State) :
    runEvents (e :: es) s = runEvents es (emit s e) := rfl

theorem runEvents_append (es fs : List Event) (s : State) :
    runEvents (es ++ fs) s = runEvents fs (runEvents es s) := List.foldl_append ..

@[simp] theorem runEvents_lines (es : List Event) (s : State) : (runEvents es s).lines = writeLines s.lines es := by
  induction es generalizing s with
  | nil => rfl
  | cons e es ih => simp [ih]

@[simp] theorem runEvents_trace (es : List Event) (s : State) : (runEvents es s).trace = s.trace ++ es := by
  induction es generalizing s with
  | nil => simp
  | cons e es ih => simp [ih]

@[simp] theorem runEvents_ix (es : List Event) (s : State) :
    (runEvents es s).ix = s.ix + BitVec.ofNat 8 es.length := by
  induction es generalizing s with
  | nil => simp
  | cons e es ih => simp [ih, BitVec.ofNat_add, BitVec.add_assoc, BitVec.add_comm (1#8)]

@[simp] theorem runEvents_life (es : List Event) (s : State) : (runEvents es s).life = s.life := by
  induction es generalizing s with
  | nil => rfl
  | cons e es ih => simp [ih]

@[simp] theorem runEvents_seqErr (es : List Event) (s : State) : (runEvents es s).seqErr = s.seqErr := by
  induction es generalizing s with
  | nil => rfl
  | cons e es ih => simp [ih]

@[simp] theorem runEvents_cmdErr (es : List Event) (s : State) : (runEvents es s).cmdErr = s.cmdErr := by
  induction es generalizing s with
  | nil => rfl
  | cons e es ih => simp [ih]

@[simp] theorem runEvents_busy (es : List Event) (s : State) : (runEvents es s).busy = s.busy := by
  induction es generalizing s with
  | nil => rfl
  | cons e es ih => simp [ih]

@[simp] theorem runEvents_opL (es : List Event) (s : State) : (runEvents es s).opL = s.opL := by
  induction es generalizing s with
  | nil => rfl
  | cons e es ih => simp [ih]

@[simp] theorem runEvents_twL (es : List Event) (s : State) : (runEvents es s).twL = s.twL := by
  induction es generalizing s with
  | nil => rfl
  | cons e es ih => simp [ih]

@[simp] theorem runEvents_pwL (es : List Event) (s : State) : (runEvents es s).pwL = s.pwL := by
  induction es generalizing s with
  | nil => rfl
  | cons e es ih => simp [ih]

@[simp] theorem runEvents_bitL (es : List Event) (s : State) : (runEvents es s).bitL = s.bitL := by
  induction es generalizing s with
  | nil => rfl
  | cons e es ih => simp [ih]

@[simp] theorem runEvents_hold (es : List Event) (s : State) : (runEvents es s).hold = s.hold := by
  induction es generalizing s with
  | nil => rfl
  | cons e es ih => simp [ih]

@[simp] theorem runEvents_inputs (es : List Event) (s : State) : (runEvents es s).inputs = s.inputs := by
  induction es generalizing s with
  | nil => rfl
  | cons e es ih => simp [ih]

@[simp] theorem latchedEvents_emit (s : State) (e : Event) : latchedEvents (emit s e) = latchedEvents s := rfl

@[simp] theorem latchedEvents_runEvents (es : List Event) (s : State) :
    latchedEvents (runEvents es s) = latchedEvents s := by simp [latchedEvents]

/-! Finishing the command in progress: its remaining events, and then the block is ready. -/

@[simp] theorem finish_lines (s : State) : (finish s).lines = writeLines s.lines (remainingEvents s) := by simp [finish]
@[simp] theorem finish_trace (s : State) : (finish s).trace = s.trace ++ remainingEvents s := by simp [finish]
@[simp] theorem finish_ix (s : State) :
    (finish s).ix = s.ix + BitVec.ofNat 8 (remainingEvents s).length := by simp [finish]
@[simp] theorem finish_life (s : State) : (finish s).life = s.life := by simp [finish]
@[simp] theorem finish_seqErr (s : State) : (finish s).seqErr = s.seqErr := by simp [finish]
@[simp] theorem finish_cmdErr (s : State) : (finish s).cmdErr = s.cmdErr := by simp [finish]
@[simp] theorem finish_busy (s : State) : (finish s).busy = false := rfl
@[simp] theorem finish_hold (s : State) : (finish s).hold = 0 := rfl
@[simp] theorem finish_opL (s : State) : (finish s).opL = s.opL := by simp [finish]
@[simp] theorem finish_twL (s : State) : (finish s).twL = s.twL := by simp [finish]
@[simp] theorem finish_pwL (s : State) : (finish s).pwL = s.pwL := by simp [finish]
@[simp] theorem finish_bitL (s : State) : (finish s).bitL = s.bitL := by simp [finish]
@[simp] theorem finish_inputs (s : State) : (finish s).inputs = s.inputs := by simp [finish]

/-! Acceptance: the latches hold the command whose list the sequencer runs, from its first event. -/

theorem latchedEvents_acceptInstr (i : Instr) (s : State) : latchedEvents (acceptInstr i s) = commandEvents i := by
  cases i <;> rfl

theorem acceptInstr_ix (i : Instr) (s : State) : (acceptInstr i s).ix = 0 := by cases i <;> rfl

theorem remainingEvents_acceptInstr (i : Instr) (s : State) :
    remainingEvents (acceptInstr i s) = commandEvents i := by
  simp [remainingEvents, latchedEvents_acceptInstr, acceptInstr_ix]

@[simp] theorem remainingEvents_acceptTransmitBit (b : Bool) (s : State) :
    remainingEvents (acceptTransmitBit b s) = evTransmitBit b := remainingEvents_acceptInstr (.transmitBit b) s

@[simp] theorem remainingEvents_acceptProgram (fRaw pRaw : Int) (s : State) :
    remainingEvents (acceptProgram fRaw pRaw s) = evProgram (tuningWord Config.refClkHz fRaw) (phaseWord pRaw) :=
  remainingEvents_acceptInstr (.program fRaw pRaw) s

@[simp] theorem remainingEvents_acceptPowerDown (s : State) : remainingEvents (acceptPowerDown s) = evPowerDown :=
  remainingEvents_acceptInstr .powerDown s

@[simp] theorem remainingEvents_acceptReset (s : State) : remainingEvents (acceptReset s) = evReset :=
  remainingEvents_acceptInstr .reset s

@[simp] theorem remainingEvents_acceptInit (s : State) : remainingEvents (acceptInit s) = evInit :=
  remainingEvents_acceptInstr .init s

/-- Every meaning is its acceptance and then the whole of its event list. -/
theorem exec_finish_accept (i : Instr) (s : State) : exec i s = .next (finish (acceptInstr i s)) := by
  cases i <;> rfl

/-! The steps of the block at its port. -/

/-- The answer of a step, by what stands at the port: the one case list a proof about `step` needs. -/
theorem step_cases (s : State) :
    (rstPin s = true ∧ step s = .next (blockReset (consume s))) ∨
    (rstPin s = false ∧ s.busy = true ∧ step s = resume s) ∨
    (rstPin s = false ∧ s.busy = false ∧ offeredWord s = none ∧ step s = .next (consume s)) ∨
    (rstPin s = false ∧ s.busy = false ∧ ∃ w why, offeredWord s = some w ∧ decode w = .illegal why ∧
      step s = .next (illegalCommand (consume s))) ∨
    (rstPin s = false ∧ s.busy = false ∧ ∃ w i, offeredWord s = some w ∧ decode w = .command i ∧
      step s = exec i (consume s)) := by
  cases hr : rstPin s with
  | true => exact .inl ⟨rfl, by simp [step, portEvent, hr]⟩
  | false =>
    cases hb : s.busy with
    | true => exact .inr (.inl ⟨rfl, rfl, by simp [step, portEvent, hr, hb]⟩)
    | false =>
      cases ho : offeredWord s with
      | none => exact .inr (.inr (.inl ⟨rfl, rfl, rfl, by simp [step, portEvent, hr, hb, ho]⟩))
      | some w =>
        cases hd : decode w with
        | illegal why =>
          exact .inr (.inr (.inr (.inl ⟨rfl, rfl, w, why, rfl, hd, by simp [step, portEvent, hr, hb, ho, hd]⟩)))
        | command i =>
          exact .inr (.inr (.inr (.inr ⟨rfl, rfl, w, i, rfl, hd, by simp [step, portEvent, hr, hb, ho, hd]⟩)))

/-- The answer of a tick, by what stands at the port. -/
theorem tickWith_cases (e : Nat) (s : State) :
    (rstPin s = true ∧ tickWith e s = .next (blockReset (consume s))) ∨
    (rstPin s = false ∧ s.busy = true ∧ opOfCode s.opL = none ∧ tickWith e s = .fault .latchedOpReserved) ∨
    (rstPin s = false ∧ s.busy = true ∧ (opOfCode s.opL).isSome = true ∧
      tickWith e s = .next (passBusy (runTick e s))) ∨
    (rstPin s = false ∧ s.busy = false ∧ offeredWord s = none ∧ tickWith e s = .next (consume s)) ∨
    (rstPin s = false ∧ s.busy = false ∧ ∃ w why, offeredWord s = some w ∧ decode w = .illegal why ∧
      tickWith e s = .next (illegalCommand (consume s))) ∨
    (rstPin s = false ∧ s.busy = false ∧ ∃ w i, offeredWord s = some w ∧ decode w = .command i ∧
      tickWith e s = .next (nextEvent e (acceptInstr i (consume s)))) := by
  cases hr : rstPin s with
  | true => exact .inl ⟨rfl, by simp [tickWith, portEvent, hr]⟩
  | false =>
    cases hb : s.busy with
    | true =>
      cases ho : opOfCode s.opL with
      | none => exact .inr (.inl ⟨rfl, rfl, rfl, by simp [tickWith, portEvent, hr, hb, ho]⟩)
      | some op => exact .inr (.inr (.inl ⟨rfl, rfl, rfl, by simp [tickWith, portEvent, hr, hb, ho]⟩))
    | false =>
      cases ho : offeredWord s with
      | none => exact .inr (.inr (.inr (.inl ⟨rfl, rfl, rfl, by simp [tickWith, portEvent, hr, hb, ho]⟩)))
      | some w =>
        cases hd : decode w with
        | illegal why =>
          exact .inr (.inr (.inr (.inr (.inl
            ⟨rfl, rfl, w, why, rfl, hd, by simp [tickWith, portEvent, hr, hb, ho, hd]⟩))))
        | command i =>
          exact .inr (.inr (.inr (.inr (.inr
            ⟨rfl, rfl, w, i, rfl, hd, by simp [tickWith, portEvent, hr, hb, ho, hd]⟩))))

/-- A tick of a command in progress holds its event on, emits the next one, or completes it. -/
theorem runTick_cases (e : Nat) (s : State) :
    (1 < s.hold ∧ runTick e s = { s with hold := s.hold - 1 }) ∨
    (s.hold ≤ 1 ∧ remainingEvents s = [] ∧ runTick e s = complete s) ∨
    (s.hold ≤ 1 ∧ ∃ ev evs, remainingEvents s = ev :: evs ∧ runTick e s = { emit s ev with hold := e }) := by
  by_cases h : 1 < s.hold
  · exact .inl ⟨h, by simp [runTick, h]⟩
  · cases hr : remainingEvents s with
    | nil => exact .inr (.inl ⟨by omega, rfl, by simp [runTick, h, nextEvent, hr]⟩)
    | cons ev evs => exact .inr (.inr ⟨by omega, ev, evs, rfl, by simp [runTick, h, nextEvent, hr]⟩)

end Sys2Proof.Machine
end

