-- ==== Sys2Proof/Laws/Observe.lean ====
section
/-! SUPPORT. The observations of a longer trace: the symbol stream and the segment view go on from where they were. -/

namespace Sys2Proof.Machine

/-- The symbols of a list of events go on from the level DATA then holds. -/
theorem symFrom_append (es fs : List Event) (ls : Lines) :
    symFrom ls.data (es ++ fs) = symFrom ls.data es ++ symFrom (writeLines ls es).data fs := by
  induction es generalizing ls with
  | nil => rfl
  | cons e es ih =>
    have h := ih (writeLine ls e)
    obtain ⟨l, v⟩ := e
    cases l <;> cases v <;> simpa [symFrom, writeLine] using h

/-- The symbol stream of a trace with more events after it. -/
theorem sym_append (es fs : List Event) :
    sym (es ++ fs) = sym es ++ symFrom (writeLines Lines.unwritten es).data fs :=
  symFrom_append es fs Lines.unwritten

/-- The segments of a symbol stream go on from what was pending. -/
theorem segmentsFrom_append (acc : Segment) (a b : List Symbol) :
    segmentsFrom acc (a ++ b) =
      ((segmentsFrom acc a).1 ++ (segmentsFrom (segmentsFrom acc a).2 b).1,
        (segmentsFrom (segmentsFrom acc a).2 b).2) := by
  induction a generalizing acc with
  | nil => rfl
  | cons x xs ih => cases x <;> simp [segmentsFrom, ih]

end Sys2Proof.Machine
end

