-- ==== Sys2Proof/Laws/PerInstr.lean ====
section
/-! SUPPORT. Statements made for every instruction, one lemma per constructor. -/

namespace Sys2Proof.Laws.EncodedFields

/-- The encoder writes the instruction's OP value and leaves RSV zero (rules R65, R67). -/
def Statement (i : Instr) : Prop := wordOp (encode i) = opCode i.op ∧ wordRsv (encode i) = 0

theorem transmitBit (b : Bool) : Statement (.transmitBit b) := by simp [Statement, encode, Instr.op]

theorem program (fRaw pRaw : Int) : Statement (.program fRaw pRaw) := by simp [Statement, encode, Instr.op]

theorem powerDown : Statement .powerDown := by simp [Statement, encode, Instr.op]

theorem reset : Statement .reset := by simp [Statement, encode, Instr.op]

theorem init : Statement .init := by simp [Statement, encode, Instr.op]

end Sys2Proof.Laws.EncodedFields
end

