-- ==== Sys2Proof/Laws/Sweep.lean ====
section
/-! SUPPORT. What an iteration of a sweep can change. -/

namespace Sys2Proof.Machine

/-- An iteration changes `cur` and `inc` and nothing else of the sweep state. -/
theorem sweepNext_frame (s : SweepState) :
    sweepNext s = { s with cur := (sweepNext s).cur, inc := (sweepNext s).inc } := by
  obtain ⟨variant, cur, inc, min, max, step, delay⟩ := s
  cases variant <;> simp only [sweepNext, sweepUpNext, sweepDownNext, sweepLoopNext] <;> split <;> rfl

end Sys2Proof.Machine
end

