-- ==== Sys2Proof/Tests/Slice0.lean ====
section
/-! SUPPORT. The model's own tests: what the spec's vectors (95_test_vectors.md) and tables say of single words, single
conversions and single steps; and, for every statement with hypotheses, a state and operands that meet them. The reference
clock of the vectors is 125000000. -/

namespace Sys2Proof.Tests

open Sys2Proof Sys2Proof.Machine

/-- The state of an outcome, where it is a next state. -/
def nextOf (o : Host.Outcome State Fault Refusal) : Option State :=
  match o with
  | .next s => some s
  | _ => none

/-- A booted block (S_boot of 95_test_vectors.md) with an empty trace: lines 0, LIFE = PROGRAMMED. -/
def boot : State := { State.reset with lines := ⟨.low, .low, .low, .low⟩, life := .programmed }

/-- The block with one word offered. -/
def offering (s : State) (w : CmdWord) : State := { s with inputs := [.offer w] }

/-- A block in the middle of TRANSMIT_BIT 1, its first event in effect, after four writes of 0. -/
def midBit : State :=
  { boot with
    lines := ⟨.low, .high, .low, .low⟩, busy := true, ix := 1, opL := 0x1, bitL := true
    dp := ⟨0x8000000000, 1, 1, .bits⟩, hold := 1
    trace := [⟨.clock, false⟩, ⟨.data, false⟩, ⟨.strobe, false⟩, ⟨.reset, false⟩, ⟨.data, true⟩] }

/-- The DATA values of a trace, in order. -/
def dataBits (es : List Event) : List Bool := (es.filter (·.line = .data)).map (·.level)

/-! Well-formedness: each check refuses an ill-formed term. -/

theorem test_wellFormed_refuses_freq_above : (Instr.program 0x8000000000000000 0).wellFormed = false := by decide
theorem test_wellFormed_refuses_freq_below : (Instr.program (-0x8000000000000001) 0).wellFormed = false := by decide
theorem test_wellFormed_refuses_phase_above : (Instr.program 0 0x80000000).wellFormed = false := by decide
theorem test_wellFormed_refuses_phase_below : (Instr.program 0 (-0x80000001)).wellFormed = false := by decide
theorem test_wellFormed_takes_the_bounds :
    (Instr.program 0x7FFFFFFFFFFFFFFF (-0x80000000)).wellFormed = true ∧
      (Instr.program (-0x8000000000000000) 0x7FFFFFFF).wellFormed = true := by decide

/-! Decoding: words written out from rule R63 and vectors 2.1 and 2.3 to 2.7. -/

theorem test_decode_transmitBit_1 : decode 0x00000000000000000000000000000011 = .command (.transmitBit true) := by decide
theorem test_decode_transmitBit_0 : decode 0x00000000000000000000000000000001 = .command (.transmitBit false) := by decide
theorem test_decode_program_1234_90 :
    decode 0x000004D200000000005A000000000002 = .command (.program 5299989643264 5898240) := by decide
theorem test_decode_program_negative :
    decode 0xFFFFFFFF00000000FFF4C00000000002 = .command (.program (-4294967296) (-737280)) := by decide
theorem test_decode_program_extremes :
    decode 0x80000000000000007FFFFFFF00000002 = .command (.program (-0x8000000000000000) 0x7FFFFFFF) ∧
      decode 0x7FFFFFFFFFFFFFFF8000000000000002 = .command (.program 0x7FFFFFFFFFFFFFFF (-0x80000000)) := by decide
theorem test_decode_powerDown : decode 0x00000000000000000000000000000003 = .command .powerDown := by decide
theorem test_decode_reset : decode 0x00000000000000000000000000000004 = .command .reset := by decide
theorem test_decode_init : decode 0x00000000000000000000000000000005 = .command .init := by decide
/-- Rule R66: FREQ, PHASE and BIT are ignored by INIT. -/
theorem test_decode_ignores_unread_fields : decode 0xFFFFFFFFFFFFFFFFFFFFFFFF00000015 = .command .init := by decide
theorem test_decode_illegal_op :
    decode 0 = .illegal .reservedOp ∧ decode 0xF = .illegal .reservedOp ∧
      decode 0x80000000000000000000000000000006 = .illegal .reservedOp := by decide
theorem test_decode_illegal_rsv :
    decode 0x22 = .illegal .reservedBits ∧ decode 0x80000002 = .illegal .reservedBits := by decide
theorem test_decodeTableWord : decodeTableWord 128 0x4 = some .reset ∧ decodeTableWord 128 0x20 = none := by decide
theorem test_encode_program :
    encode (.program 5299989643264 5898240) = 0x000004D200000000005A000000000002 ∧
      encode (.program (-4294967296) (-737280)) = 0xFFFFFFFF00000000FFF4C00000000002 := by decide
theorem test_encode_others :
    encode (.transmitBit true) = 0x11 ∧ encode .powerDown = 0x3 ∧ encode .reset = 0x4 ∧ encode .init = 0x5 := by decide

/-! Conversion: vectors E1, E2, E6, E7 and 2.2. -/

theorem test_tuningWord_hertz :
    tuningWord 125000000 (1 * 0x100000000) = 0x22 ∧ tuningWord 125000000 (1000 * 0x100000000) = 0x8638 ∧
      tuningWord 125000000 (1234 * 0x100000000) = 0xA5A0 ∧ tuningWord 125000000 (1000000 * 0x100000000) = 0x020C49BA ∧
      tuningWord 125000000 (40000000 * 0x100000000) = 0x51EB851F := by decide
theorem test_tuningWord_rounds_down : tuningWord 125000000 (2000 * 0x100000000) = 0x00010C6F := by decide
theorem test_tuningWord_negative :
    tuningWord 125000000 (-1 * 0x100000000) = 0xFFFFFFDE ∧ tuningWord 125000000 (-4000 * 0x100000000) = 0xFFFDE721 := by
  decide
theorem test_tuningWord_ties : tuningWord 125000000 62500000 = 1 ∧ tuningWord 125000000 (-62500000) = 0 := by decide
/-- Rule R87: round(-1.5) = -1. -/
theorem test_tuningWord_tie_below : tuningWord 2 (-3) = 0xFFFFFFFF := by decide
theorem test_phaseWord_steps :
    phaseWord 0x000B3FFF = 0 ∧ phaseWord 0x000B4000 = 1 ∧ phaseWord 0x005A0000 = 8 ∧ phaseWord 0x0167FC00 = 31 ∧
      phaseWord 0x01680000 = 0 ∧ phaseWord 0x02E68000 = 2 := by decide
theorem test_phaseWord_negative : phaseWord (-1) = 31 ∧ phaseWord (-737280) = 31 ∧ phaseWord (-23592960) = 0 := by decide
theorem test_frame40 : frame40 0x020C49BA 8 = 0x020C49BA08 := by decide

/-! The commands: one step each, from the vectors. -/

/-- Vector 2.3: from S0, TRANSMIT_BIT 1 sets SEQ_ERR and leaves STROBE and RESET unknown. -/
theorem test_transmitBit_from_reset :
    (nextOf (step (offering State.reset 0x11))).map (fun t => (t.trace, t.lines, status t)) =
      some ([⟨.data, true⟩, ⟨.clock, true⟩, ⟨.clock, false⟩], ⟨.low, .high, .unknown, .unknown⟩, 0x08) := by decide
theorem test_transmitBit_from_boot :
    (nextOf (step (offering boot 0x01))).map (fun t => (sym t.trace, t.lines.data, status t)) =
      some ([.bit .low], .low, 0x04) := by decide

/-- Vector 2.4, PROGRAM 1234, 90: the forty DATA values in order. -/
theorem test_program_1234_90_bits :
    dataBits (finish (acceptProgramAt 125000000 5299989643264 5898240 boot)).trace =
      [false, false, false, false, false, false, false, false, false, false, false, false, false, false, false, false,
       true, false, true, false, false, true, false, true, true, false, true, false, false, false, false, false,
       false, false, false, false, true, false, false, false] := by decide +kernel
/-- Vector 2.4, PROGRAM -1, -11.25: DATA ends at 1, and 122 events. -/
theorem test_program_negative_end :
    let t := finish (acceptProgramAt 125000000 (-4294967296) (-737280) boot)
    t.lines = ⟨.low, .high, .low, .low⟩ ∧ t.trace.length = 122 ∧ status t = 0x04 := by decide +kernel

/-- Vector 2.5. -/
theorem test_powerDown_symbols :
    (nextOf (step (offering boot 0x3))).map (fun t => (sym t.trace, t.trace.length, status t)) =
      some ([.stb, .bit .low, .bit .low, .bit .high, .bit .low, .bit .low, .bit .low, .bit .low, .bit .low, .stb],
        28, 0x04) := by decide +kernel
/-- Vector 2.5, from S0: RESET stays unknown. -/
theorem test_powerDown_from_reset :
    (nextOf (step (offering State.reset 0x3))).map (fun t => (t.lines, status t)) =
      some (⟨.low, .low, .low, .unknown⟩, 0x08) := by decide +kernel

/-- Vector 2.6: RESET without INIT clocks an unknown bit. -/
theorem test_reset_from_reset :
    (nextOf (step (offering State.reset 0x4))).map (fun t => ((sym t.trace).take 3, t.trace.length, status t)) =
      some ([.bit .unknown, .rst, .stb], 128, 0x0C) := by decide +kernel
theorem test_reset_first_events :
    evReset.take 6 = [⟨.clock, true⟩, ⟨.clock, false⟩, ⟨.reset, true⟩, ⟨.reset, false⟩, ⟨.strobe, true⟩,
      ⟨.strobe, false⟩] := by decide

/-- Vectors 2.7 and 2.8. -/
theorem test_init_from_reset :
    (nextOf (step (offering State.reset 0x5))).map (fun t => (t.trace, t.lines, status t)) =
      some ([⟨.clock, false⟩, ⟨.data, false⟩, ⟨.strobe, false⟩, ⟨.reset, false⟩], ⟨.low, .low, .low, .low⟩, 0x02) := by
  decide
theorem test_init_keeps_programmed :
    (nextOf (step (offering boot 0x5))).map (fun t => (t.life, t.seqErr)) = some (.programmed, false) := by decide

/-- Vector 2.1: an illegal word emits nothing and sets CMD_ERR (STATUS 0x14). -/
theorem test_illegal_word :
    (nextOf (step (offering boot 0x22))).map (fun t => (t.trace, t.lines, status t, t.inputs)) =
      some ([], boot.lines, 0x14, []) := by decide
theorem test_blockReset : nextOf (step { midBit with inputs := [.blockReset] }) = some State.reset := by decide
theorem test_busy_step_completes :
    (nextOf (step midBit)).map (fun t => (t.busy, t.trace.drop 5)) =
      some (false, [⟨.clock, true⟩, ⟨.clock, false⟩]) := by decide
theorem test_reserved_latch_stops : nextOf (step { midBit with opL := 0x6 }) = none := by decide
theorem test_withFetchWord_reset :
    (nextOf (step (State.reset.withFetchWord 128 0x5))).map (fun t => status t) = some 0x02 := by decide
theorem test_withFetchWord_program : ∃ t, step (State.reset.withFetchWord 128 0x2) = .next t := ⟨_, rfl⟩

/-! The tick level: vector 2.9 with E = 1 and E = 2, for INIT accepted at tick 0. -/

theorem test_tick_acceptance :
    (nextOf (tickWith 1 (offering State.reset 0x5))).map (fun t => (t.busy, t.trace, t.ix)) =
      some (true, [⟨.clock, false⟩], 1) := by decide
theorem test_ticks_init_ready_at_5 :
    (nextOf (ticksWith 1 4 (offering State.reset 0x5))).map cmdReady = some false ∧
      (nextOf (ticksWith 1 5 (offering State.reset 0x5))).map cmdReady = some true := by decide
theorem test_ticks_hold_two :
    (nextOf (ticksWith 2 2 (offering State.reset 0x5))).map (·.trace.length) = some 1 ∧
      (nextOf (ticksWith 2 3 (offering State.reset 0x5))).map (·.trace.length) = some 2 := by decide
/-- Rule R43: a word offered while BUSY = 1 waits. -/
theorem test_tick_offer_waits :
    (nextOf (tickWith 1 (offering midBit 0x3))).map (·.inputs) = some [.offer 0x3] := by decide
/-- Rules R142, R150: block reset inside a command. -/
theorem test_tick_reset_in_command : nextOf (tickWith 1 { midBit with inputs := [.blockReset] }) = some State.reset := by
  decide
/-- Rule R32: the datapath drives POWER_DOWN's first bit after the strobe's two events. -/
theorem test_datapath_powerDown :
    let t := runEvents (evPowerDown.take 8) (acceptPowerDown boot)
    datapathEvent .powerDown t.ix t.dp = some ⟨.data, true⟩ := by decide

/-! Segments, sweeps, assembler. -/

/-- Program P5's hazard: a pending bit joins the next commit. -/
theorem test_segments_pending :
    segments ([⟨.data, true⟩, ⟨.clock, true⟩, ⟨.clock, false⟩] ++ evPowerDown) =
      ([⟨[.high], false⟩, ⟨[.low, .low, .high, .low, .low, .low, .low, .low], false⟩], ⟨[], false⟩) := by decide

/-- Vector 2.6: RESET right after INIT commits [0] with RST and then forty zeros. -/
theorem test_segments_reset :
    segments (evInit ++ evReset) =
      ([⟨[.low], true⟩, ⟨List.replicate 40 .low, false⟩], ⟨[], false⟩) := by decide +kernel

/-- Vector 2.10, in whole units: the values each sweep is at, before every iteration. -/
def visits : Nat → SweepState → List Int
  | 0, _ => []
  | n + 1, s => s.cur :: visits n (sweepNext s)

theorem test_sweep_up :
    visits 5 (sweepStart .up 1000 2000 500 0) = [1000, 1500, 2000, 1000, 1500] ∧
      visits 4 (sweepStart .up 1000 2000 400 0) = [1000, 1400, 1800, 1000] := by decide
theorem test_sweep_down : visits 4 (sweepStart .down 1000 2000 400 0) = [2000, 1600, 1200, 2000] := by decide
theorem test_sweep_loop :
    visits 8 (sweepStart .loop 1000 2000 600 0) = [1000, 1600, 2200, 1600, 1000, 400, 1000, 1600] := by decide
theorem test_sweep_loop_edge :
    visits 5 (sweepStart .loop 1000 2000 5000 0) = [1000, 6000, 1000, -4000, 1000] := by decide
theorem test_driveSweep_stops :
    (driveSweep (fun s => decide (s.cur = 3)) 9 (sweepStart .up 1 5 1 0)).1.length = 2 := by decide

theorem test_assemble_program :
    assemble "PROGRAM 40000000, 359.984375 ; a comment" = .words [0x02625A00000000000167FC0000000002] := by decide
theorem test_assemble_negative : assemble "PROGRAM -1, -11.25" = .words [0xFFFFFFFF00000000FFF4C00000000002] := by decide
theorem test_assemble_lines : assemble "INIT\nRESET\nTRANSMIT_BIT 1\n" = .words [0x5, 0x4, 0x11] := by decide
theorem test_assemble_raw_word :
    assemble ".cmd 0x00000000000000000000000000000022" = .words [0x22] ∧
      assemble "PROGRAM raw 0x4D200000000, 5A0000" = .words [0x000004D200000000005A000000000002] := by decide
theorem test_assemble_refuses :
    assemble "PROGRAM 0.1, 0" = .refused .notRepresentable ∧
      assemble "PROGRAM 2147483648, 0" = .refused .notRepresentable ∧
      assemble "init" = .refused .badSyntax ∧ assemble "TRANSMIT_BIT 2" = .refused .badSyntax := by decide

/-! Witnesses: for each statement with hypotheses, what meets them, clause by clause. -/

theorem witness_invariant_mid_command : Inv midBit := by decide
theorem witness_invariant_boot : ¬Inv boot ∧ Inv (finish (acceptInit State.reset)) := by decide

theorem witness_BlockResetAbandonsEverything : ({ midBit with inputs := [.blockReset, .idle] } : State).inputs =
    .blockReset :: [.idle] := rfl

theorem witness_OnlyBlockResetReturnsToUninit :
    (∃ s t : State, s.inputs.head? = some .blockReset ∧ s.life ≠ .uninit ∧ tick s = .next t) ∧
      ∃ s t : State, s.inputs.head? ≠ some .blockReset ∧ s.life ≠ .uninit ∧ step s = .next t :=
  ⟨⟨{ midBit with inputs := [.blockReset] }, _, by decide, by decide, rfl⟩,
    ⟨offering boot 0x5, _, by decide, by decide, rfl⟩⟩

theorem witness_ErrorFlagsAreSticky :
    ∃ s t : State, s.inputs.head? ≠ some .blockReset ∧ s.seqErr = true ∧ s.cmdErr = true ∧ step s = .next t :=
  ⟨offering { boot with seqErr := true, cmdErr := true } 0x5, _, by decide, rfl, rfl, rfl⟩

theorem witness_DecodeReadsTheFieldsOfTheWord :
    (∃ w : CmdWord, w.toNat / 2 ^ 5 % 2 ^ 27 = 0 ∧ w.toNat % 16 = 1) ∧
      (∃ w : CmdWord, w.toNat / 2 ^ 5 % 2 ^ 27 = 0 ∧ w.toNat % 16 = 2 ∧ w.toNat / 2 ^ 64 = 2 ^ 63 ∧
        w.toNat / 2 ^ 32 % 2 ^ 32 = 2 ^ 31 - 1) ∧
      (∃ w : CmdWord, w.toNat / 2 ^ 5 % 2 ^ 27 = 0 ∧ w.toNat % 16 = 3) ∧
      (∃ w : CmdWord, w.toNat / 2 ^ 5 % 2 ^ 27 = 0 ∧ w.toNat % 16 = 4) ∧
      (∃ w : CmdWord, w.toNat / 2 ^ 5 % 2 ^ 27 = 0 ∧ w.toNat % 16 = 5) ∧
      (∃ w : CmdWord, w.toNat / 2 ^ 5 % 2 ^ 27 = 2 ^ 26 ∧ w.toNat % 16 = 2) ∧
      (∃ w : CmdWord, w.toNat / 2 ^ 5 % 2 ^ 27 = 0 ∧ w.toNat % 16 = 0) ∧
      ∃ w : CmdWord, w.toNat / 2 ^ 5 % 2 ^ 27 = 0 ∧ w.toNat % 16 = 6 :=
  ⟨⟨0x11, by decide⟩, ⟨0x80000000000000007FFFFFFF00000002, by decide⟩, ⟨0x3, by decide⟩, ⟨0x4, by decide⟩,
    ⟨0x5, by decide⟩, ⟨0x80000002, by decide⟩, ⟨0, by decide⟩, ⟨0x6, by decide⟩⟩

theorem witness_IllegalWordOnlySetsCmdErr :
    (offering boot 0x22).busy = false ∧ (offering boot 0x22).inputs = .offer 0x22 :: [] ∧
      (0x22 : CmdWord).toNat / 2 ^ 5 % 2 ^ 27 ≠ 0 ∧ (0 : CmdWord).toNat % 16 = 0 ∧ 6 ≤ (0x6 : CmdWord).toNat % 16 := by
  decide

theorem witness_DecodeOfEncodeIsTheInstruction :
    (Instr.program (-0x8000000000000000) 0x7FFFFFFF).wellFormed = true ∧ (Instr.transmitBit true).wellFormed = true := by
  decide

theorem witness_EncodeOfDecodeKeepsTheReadFields :
    decode 0xFFFFFFFFFFFFFFFFFFFFFFFF00000012 = .command (.program (-1) (-1)) ∧
      decode 0xFFFFFFFFFFFFFFFFFFFFFFFF00000011 = .command (.transmitBit true) ∧
      decode 0xFFFFFFFFFFFFFFFFFFFFFFFF00000013 = .command .powerDown := by decide

theorem witness_UnreadFieldsHaveNoEffect :
    let v : CmdWord := 0xFFFFFFFFFFFFFFFFFFFFFFFF00000011
    let w : CmdWord := 0x11
    v ≠ w ∧ wordOp v = wordOp w ∧ wordRsv v = wordRsv w ∧ wordOp v = 0x1 ∧ wordBit v = wordBit w := by decide

theorem witness_UnreadFieldsHaveNoEffect_program :
    let v : CmdWord := 0x000004D200000000005A000000000012
    let w : CmdWord := 0x000004D200000000005A000000000002
    v ≠ w ∧ wordOp v = wordOp w ∧ wordRsv v = wordRsv w ∧ wordOp v = 0x2 ∧ wordFreq v = wordFreq w ∧
      wordPhase v = wordPhase w := by decide

theorem witness_TuningTiesGoUp : (1 ≤ 2) ∧ ((-3 : Int) : ℚ) / (2 : Nat) = ((-2 : Int) : ℚ) + 1 / 2 := by norm_num

theorem witness_TuningWordInRangeIsExact :
    (1 ≤ 1 ∧ (0 : Int) ≤ 0 ∧ (0 : Int) < (1 : Nat) * 2 ^ 31) ∧
      (1 ≤ 125000000 ∧ (0 : Int) ≤ 125000000 * 2 ^ 31 - 1 ∧ (125000000 * 2 ^ 31 - 1 : Int) < (125000000 : Nat) * 2 ^ 31) := by
  norm_num

theorem witness_PhaseWordBands : (0 < 32 ∧ phaseWord 0 = 0) ∧ (31 < 32 ∧ phaseWord 23592959 = 31) := by decide

theorem witness_ProgramSymbols : ∃ t, exec (.program (-1) 0) State.reset = .next t := ⟨_, rfl⟩
theorem witness_PowerDownSymbols : ∃ t, exec .powerDown State.reset = .next t := ⟨_, rfl⟩
theorem witness_ResetSymbols : LinesFollowTrace State.reset ∧ ∃ t, exec .reset State.reset = .next t :=
  ⟨by decide, _, rfl⟩

theorem witness_CommandsCommitTheseSegments :
    segments boot.trace = ([], ⟨[], false⟩) ∧
      segments [⟨.data, true⟩, ⟨.clock, true⟩, ⟨.reset, true⟩] = ([], ⟨[.high], true⟩) := by decide

/-- RESET's clause, with one bit pending. -/
theorem witness_CommandsCommitTheseSegments_reset :
    let s : State := finish (acceptTransmitBit true State.reset)
    segments s.trace = ([], ⟨[.high], false⟩) ∧ LinesFollowTrace s ∧ ∃ t, exec .reset s = .next t :=
  ⟨by decide, by decide, _, rfl⟩

theorem witness_LifeFollowsTheTable :
    (∃ t, exec .init State.reset = .next t) ∧
      ∃ (s t : State) (w : CmdWord) (why : IllegalCause), s.busy = false ∧ s.inputs.head? = some (.offer w) ∧
        decode w = .illegal why ∧ step s = .next t :=
  ⟨⟨_, rfl⟩, offering boot 0x6, _, 0x6, .reservedOp, rfl, rfl, by decide, rfl⟩

theorem witness_SeqErrFollowsTheRule : ∃ t, exec .reset State.reset = .next t := ⟨_, rfl⟩

theorem witness_BootOrderNeverSetsSeqErr :
    let is : List Instr := [.program 0x7FFFFFFFFFFFFFFF (-0x80000000), .init]
    let s : State := { State.reset with inputs := (.init :: .reset :: is).map (fun i => .offer (encode i)) }
    (∀ i ∈ is, i.wellFormed = true) ∧ s.busy = false ∧ s.life = .uninit ∧ s.seqErr = false := by decide

theorem witness_StepRunsTheDecodedInstruction :
    (offering boot 0x3).busy = false ∧ (offering boot 0x3).inputs = .offer 0x3 :: [] ∧
      decode 0x3 = .command .powerDown ∧ decodeTableWord 128 0x11 = some (.transmitBit true) := by decide

theorem witness_CommandsRunInOrderWithoutOverlap :
    let is : List Instr := [.transmitBit true, .program (-1) 1]
    let s : State := { boot with inputs := is.map (fun i => .offer (encode i)) }
    (∀ i ∈ is, i.wellFormed = true) ∧ s.busy = false ∧ s.inputs.length = 2 := by decide

theorem witness_EventsDependOnTheCommandAlone :
    ∃ s' t', exec (.transmitBit true) State.reset = .next s' ∧ exec (.transmitBit true) boot = .next t' :=
  ⟨_, _, rfl, rfl⟩

theorem witness_WaitingChangesNothing :
    boot.busy = false ∧ boot.inputs = [] ∧ ({ boot with inputs := [.awaitReady] } : State).inputs = .awaitReady :: [] := by
  decide

theorem witness_BusyStepCompletesTheCommand :
    midBit.busy = true ∧ midBit.inputs.head? ≠ some .blockReset ∧ (opOfCode midBit.opL).isSome = true := by decide

theorem witness_StepKeepsTheInvariant :
    (Inv midBit ∧ ∃ t, step midBit = .next t) ∧ Inv (offering State.reset 0x2) ∧
      ∃ t, step (offering State.reset 0x2) = .next t :=
  ⟨⟨by decide, _, rfl⟩, by decide, _, rfl⟩

theorem witness_TickKeepsTheInvariant :
    (Inv midBit ∧ ∃ t, tick midBit = .next t) ∧ Inv (offering State.reset 0x2) ∧
      ∃ t, tick (offering State.reset 0x2) = .next t :=
  ⟨⟨by decide, _, rfl⟩, by decide, _, rfl⟩

theorem witness_StopOnlyOnAReservedLatch :
    let s : State := { midBit with opL := 0x6 }
    s.inputs.head? ≠ some .blockReset ∧ s.busy = true ∧ 6 ≤ s.opL.toNat := by decide

theorem witness_TraceOnlyGrows :
    midBit.inputs.head? ≠ some .blockReset ∧ (∃ t, step midBit = .next t) ∧ ∃ t, tick midBit = .next t :=
  ⟨by decide, ⟨_, rfl⟩, ⟨_, rfl⟩⟩

theorem witness_TicksRefineTheCommand :
    let s : State := { boot with inputs := [.offer 0x11, .idle, .offer 0x3] }
    s.busy = false ∧ s.inputs = .offer 0x11 :: [.idle, .offer 0x3] ∧ decode 0x11 = .command (.transmitBit true) ∧
      HostInput.blockReset ∉ [HostInput.idle, .offer 0x3] ∧ [HostInput.offer 0x3].head? ≠ some .idle := by decide

theorem witness_EventsTakeEffectOnTheirTicks :
    (2 < (commandEvents (.transmitBit true)).length ∧ 0 < Config.eventTicks) ∧
      HostInput.blockReset ∉ [HostInput.idle, .offer 0x3] ∧ (offering boot 0x6).busy = false ∧
      decode 0x6 = .illegal .reservedOp :=
  ⟨⟨by decide, eventTicks_pos⟩, by decide, by decide, by decide⟩

theorem witness_PortIsIgnoredWhileBusy :
    midBit.busy = true ∧ [HostInput.offer 0x3].head? ≠ some .blockReset ∧ [HostInput.idle].head? ≠ some .blockReset ∧
      (∃ t, tick { midBit with inputs := [.offer 0x3] } = .next t) ∧
      ∃ u, tick { midBit with inputs := [.idle] } = .next u :=
  ⟨rfl, by decide, by decide, ⟨_, rfl⟩, ⟨_, rfl⟩⟩

theorem witness_DatapathDrivesTheEventList :
    0 ≤ (commandEvents .init).length ∧ 4 ≤ (commandEvents .init).length := by decide

theorem witness_PlainSweepsStayInRange :
    let s : SweepState := { sweepStart .up 1000 2000 500 0 with cur := 2000 }
    let t : SweepState := { sweepStart .down 1000 2000 400 0 with cur := 1000 }
    (s.variant = .up ∧ 0 ≤ s.step ∧ s.min ≤ s.max ∧ s.min ≤ s.cur ∧ s.cur ≤ s.max) ∧
      (t.variant = .down ∧ 0 ≤ t.step ∧ t.min ≤ t.max ∧ t.min ≤ t.cur ∧ t.cur ≤ t.max) := by decide

theorem witness_LoopSweepOvershootsAtMostOneStep :
    let s : SweepState := { sweepStart .loop 1000 2000 500 0 with cur := 2500, inc := -500 }
    s.variant = .loop ∧ 0 < (500 : Int) ∧ s.min ≤ s.max ∧ s.inc = -500 ∧ s.min - 500 ≤ s.cur ∧ s.cur ≤ s.max + 500 ∧
      (s.max < s.cur → s.inc = -500) ∧ (s.cur < s.min → s.inc = 500) := by decide

theorem witness_SweepStepIssuesOneProgram :
    ((-2 ^ 63 : Int) ≤ -2 ^ 63 ∧ (-2 ^ 63 : Int) < 2 ^ 63) ∧ (2 ^ 63 : Int) ≤ 2 ^ 63 := by norm_num

/-- 359.984375 degrees is 0x0167FC00 units; 0.1 hertz is no whole number of units. -/
theorem witness_AssemblerIsExactOrRefuses :
    ((0x0167FC00 : Int) * 10 ^ 6 = 359984375 * 0x10000 ∧ PhaseInRange 0x0167FC00) ∧
      ∀ fRaw : Int, ¬fRaw * 10 ^ 1 = 1 * 0x100000000 :=
  ⟨by decide, by intro f; omega⟩

end Sys2Proof.Tests
end

/-! SUPPORT. The steps and ticks of the block said once for every proof about what they keep: what each operation of the
tick level does, what acceptance sets, and the cases of a step or a tick that answers a next state. -/

namespace Sys2Proof.Machine

/-! The port. -/

theorem rstPin_eq_true_iff (s : State) : rstPin s = true ↔ s.inputs.head? = some .blockReset := by
  unfold rstPin
  split <;> simp_all

theorem rstPin_eq_false_iff (s : State) : rstPin s = false ↔ s.inputs.head? ≠ some .blockReset := by
  rw [← Bool.not_eq_true, ne_eq, rstPin_eq_true_iff]

/-- Over a busy tick the host's action waits or has passed; the block itself does not move. -/
theorem passBusy_cases (s : State) : passBusy s = s ∨ passBusy s = consume s := by
  unfold passBusy
  split
  · exact .inr rfl
  · exact .inl rfl

@[simp] theorem passBusy_trace (s : State) : (passBusy s).trace = s.trace := by
  obtain h | h := passBusy_cases s <;> rw [h]
  rfl

/-! The fields of `acceptInstr`. -/

section Acceptance
variable (i : Instr) (s : State)

@[simp] theorem acceptInstr_lines : (acceptInstr i s).lines = s.lines := by cases i <;> rfl
@[simp] theorem acceptInstr_trace : (acceptInstr i s).trace = s.trace := by cases i <;> rfl
@[simp] theorem acceptInstr_life : (acceptInstr i s).life = nextLife i.op s.life := by cases i <;> rfl
@[simp] theorem acceptInstr_seqErr : (acceptInstr i s).seqErr = (s.seqErr || violates i.op s.life) := by
  cases i <;> rfl
@[simp] theorem acceptInstr_cmdErr : (acceptInstr i s).cmdErr = s.cmdErr := by cases i <;> rfl
@[simp] theorem acceptInstr_busy : (acceptInstr i s).busy = true := by cases i <;> rfl
@[simp] theorem acceptInstr_opL : (acceptInstr i s).opL = opCode i.op := by cases i <;> rfl

end Acceptance

/-- No cell of rule R114's table leads back to UNINIT. -/
theorem nextLife_ne_uninit {life : Life} (op : Op) (h : life ≠ .uninit) : nextLife op life ≠ .uninit := by
  cases op <;> cases life <;> simp_all [nextLife]

/-! The next event, and a tick of a command in progress. -/

/-- The next event takes effect, or there is none and the command is complete. -/
theorem nextEvent_cases (e : Nat) (s : State) :
    (remainingEvents s = [] ∧ nextEvent e s = complete s) ∨
    ∃ ev evs, remainingEvents s = ev :: evs ∧ nextEvent e s = { emit s ev with hold := e } := by
  cases hr : remainingEvents s with
  | nil => exact .inl ⟨rfl, by simp [nextEvent, hr]⟩
  | cons ev evs => exact .inr ⟨ev, evs, rfl, by simp [nextEvent, hr]⟩

/-- A tick of a command in progress holds its event on, or is the next event's. -/
theorem runTick_eq (e : Nat) (s : State) :
    (1 < s.hold ∧ runTick e s = { s with hold := s.hold - 1 }) ∨ runTick e s = nextEvent e s := by
  by_cases h : 1 < s.hold
  · exact .inl ⟨h, if_pos h⟩
  · exact .inr (if_neg h)

/-- LIFE and the error flags move at acceptance only (rules R114, R115, R127): `t` has those of `s`. -/
def SameFlags (s t : State) : Prop := t.life = s.life ∧ t.seqErr = s.seqErr ∧ t.cmdErr = s.cmdErr

theorem sameFlags_finish (s : State) : SameFlags s (finish s) := by simp [SameFlags]

theorem sameFlags_nextEvent (e : Nat) (s : State) : SameFlags s (nextEvent e s) := by
  obtain ⟨-, h⟩ | ⟨ev, evs, -, h⟩ := nextEvent_cases e s <;> rw [h] <;> exact ⟨rfl, rfl, rfl⟩

theorem sameFlags_passBusy_runTick (e : Nat) (s : State) : SameFlags s (passBusy (runTick e s)) := by
  have h : SameFlags s (runTick e s) := by
    obtain ⟨-, h⟩ | h := runTick_eq e s
    · rw [h]; exact ⟨rfl, rfl, rfl⟩
    · rw [h]; exact sameFlags_nextEvent e s
  obtain hp | hp := passBusy_cases (runTick e s) <;> rw [hp] <;> exact h

/-! The trace takes at most one event a tick (rules R33, R151). -/

theorem nextEvent_trace_cases (e : Nat) (s : State) :
    (nextEvent e s).trace = s.trace ∨ ∃ ev, (nextEvent e s).trace = s.trace ++ [ev] := by
  obtain ⟨-, h⟩ | ⟨ev, evs, -, h⟩ := nextEvent_cases e s <;> rw [h]
  · exact .inl rfl
  · exact .inr ⟨ev, rfl⟩

theorem runTick_trace_cases (e : Nat) (s : State) :
    (runTick e s).trace = s.trace ∨ ∃ ev, (runTick e s).trace = s.trace ++ [ev] := by
  obtain ⟨-, h⟩ | h := runTick_eq e s <;> rw [h]
  · exact .inl rfl
  · exact nextEvent_trace_cases e s

/-! A step or a tick that answers a next state. -/

theorem exec_eq_next_iff (i : Instr) (s t : State) : exec i s = .next t ↔ t = finish (acceptInstr i s) := by
  rw [exec_finish_accept, Host.Outcome.next.injEq, eq_comm]

theorem resume_eq_next_iff (s t : State) :
    resume s = .next t ↔ (opOfCode s.opL).isSome = true ∧ t = finish s := by
  unfold resume
  split
  · next h => simpa [h] using eq_comm
  · next h => simp [h]

theorem resume_eq_fault_iff (s : State) : resume s = .fault .latchedOpReserved ↔ opOfCode s.opL = none := by
  unfold resume
  split <;> simp_all

theorem resume_ne_refused (s : State) (r : Refusal) : resume s ≠ .refused r := by
  unfold resume
  split <;> simp

/-- The next state of a step, by what stands at the port. -/
theorem step_next_cases {s t : State} (h : step s = .next t) :
    (s.inputs.head? = some .blockReset ∧ t = blockReset (consume s)) ∨
    (s.inputs.head? ≠ some .blockReset ∧
      ((s.busy = true ∧ t = finish s) ∨
       (s.busy = false ∧ (t = consume s ∨ t = illegalCommand (consume s) ∨
          ∃ i, t = finish (acceptInstr i (consume s)))))) := by
  rw [← rstPin_eq_true_iff, ← rstPin_eq_false_iff]
  obtain ⟨hr, hs⟩ | ⟨hr, hb, hs⟩ | ⟨hr, hb, -, hs⟩ | ⟨hr, hb, w, why, -, -, hs⟩ | ⟨hr, hb, w, i, -, -, hs⟩ :=
    step_cases s <;> rw [hs] at h
  · exact .inl ⟨hr, by simpa using h.symm⟩
  · exact .inr ⟨hr, .inl ⟨hb, ((resume_eq_next_iff s t).mp h).2⟩⟩
  · exact .inr ⟨hr, .inr ⟨hb, .inl (by simpa using h.symm)⟩⟩
  · exact .inr ⟨hr, .inr ⟨hb, .inr (.inl (by simpa using h.symm))⟩⟩
  · exact .inr ⟨hr, .inr ⟨hb, .inr (.inr ⟨i, (exec_eq_next_iff ..).mp h⟩)⟩⟩

/-- The next state of a tick, by what stands at the port. -/
theorem tick_next_cases {s t : State} (h : tick s = .next t) :
    (s.inputs.head? = some .blockReset ∧ t = blockReset (consume s)) ∨
    (s.inputs.head? ≠ some .blockReset ∧
      ((s.busy = true ∧ t = passBusy (runTick Config.eventTicks s)) ∨
       (s.busy = false ∧ (t = consume s ∨ t = illegalCommand (consume s) ∨
          ∃ i, t = nextEvent Config.eventTicks (acceptInstr i (consume s)))))) := by
  rw [← rstPin_eq_true_iff, ← rstPin_eq_false_iff]
  obtain ⟨hr, hs⟩ | ⟨hr, hb, -, hs⟩ | ⟨hr, hb, -, hs⟩ | ⟨hr, hb, -, hs⟩ | ⟨hr, hb, w, why, -, -, hs⟩ |
    ⟨hr, hb, w, i, -, -, hs⟩ := tickWith_cases Config.eventTicks s <;> rw [tick, hs] at h
  · exact .inl ⟨hr, by simpa using h.symm⟩
  · cases h
  · exact .inr ⟨hr, .inl ⟨hb, by simpa using h.symm⟩⟩
  · exact .inr ⟨hr, .inr ⟨hb, .inl (by simpa using h.symm)⟩⟩
  · exact .inr ⟨hr, .inr ⟨hb, .inr (.inl (by simpa using h.symm))⟩⟩
  · exact .inr ⟨hr, .inr ⟨hb, .inr (.inr ⟨i, by simpa using h.symm⟩)⟩⟩

/-- At either level: block reset answers the reset state; without it LIFE and the error flags stay, or CMD_ERR is set, or
they are what the acceptance of a command makes them. -/
theorem next_flags_cases {s t : State} (h : step s = .next t ∨ tick s = .next t) :
    (s.inputs.head? = some .blockReset ∧ t = blockReset (consume s)) ∨
    (s.inputs.head? ≠ some .blockReset ∧
      (SameFlags s t ∨ SameFlags (illegalCommand s) t ∨ ∃ i, SameFlags (acceptInstr i (consume s)) t)) := by
  obtain h | h := h
  · obtain hr | ⟨hr, ⟨-, rfl⟩ | ⟨-, rfl | rfl | ⟨i, rfl⟩⟩⟩ := step_next_cases h
    · exact .inl hr
    · exact .inr ⟨hr, .inl (sameFlags_finish s)⟩
    · exact .inr ⟨hr, .inl ⟨rfl, rfl, rfl⟩⟩
    · exact .inr ⟨hr, .inr (.inl ⟨rfl, rfl, rfl⟩)⟩
    · exact .inr ⟨hr, .inr (.inr ⟨i, sameFlags_finish _⟩)⟩
  · obtain hr | ⟨hr, ⟨-, rfl⟩ | ⟨-, rfl | rfl | ⟨i, rfl⟩⟩⟩ := tick_next_cases h
    · exact .inl hr
    · exact .inr ⟨hr, .inl (sameFlags_passBusy_runTick _ s)⟩
    · exact .inr ⟨hr, .inl ⟨rfl, rfl, rfl⟩⟩
    · exact .inr ⟨hr, .inr (.inl ⟨rfl, rfl, rfl⟩)⟩
    · exact .inr ⟨hr, .inr (.inr ⟨i, sameFlags_nextEvent _ _⟩)⟩

end Sys2Proof.Machine

/-! SUPPORT. The event lists: PROGRAM's frame as one value, the number of events of each list, and the lines quiet after
each list (rules R22, R78, R101 to R112). -/

namespace Sys2Proof.Machine

/-! The bits of a value and the frame. -/

@[simp] theorem length_bitsMsbFirst {n : Nat} (v : BitVec n) : (bitsMsbFirst v).length = n := by simp [bitsMsbFirst]

/-- The top bit first: the bits of the left half, then those of the right half. -/
theorem bitsMsbFirst_append {n m : Nat} (x : BitVec n) (y : BitVec m) :
    bitsMsbFirst (x ++ y) = bitsMsbFirst x ++ bitsMsbFirst y := by
  unfold bitsMsbFirst
  rw [List.range_add, List.map_append, List.map_map]
  congr 1
  · refine List.map_congr_left fun k hk => ?_
    have hk : k < n := List.mem_range.mp hk
    have h1 : ¬n + m - 1 - k < m := by omega
    have h2 : n + m - 1 - k - m = n - 1 - k := by omega
    rw [BitVec.getLsbD_append, if_neg h1, h2]
  · refine List.map_congr_left fun k hk => ?_
    have hk : k < m := List.mem_range.mp hk
    have h1 : n + m - 1 - (n + k) = m - 1 - k := by omega
    have h2 : m - 1 - k < m := by omega
    rw [Function.comp_apply, BitVec.getLsbD_append, h1, if_pos h2]

@[simp] theorem evBits_nil : evBits [] = [] := rfl

@[simp] theorem evBits_cons (b : Bool) (bs : List Bool) : evBits (b :: bs) = evBit b ++ evBits bs := rfl

@[simp] theorem evBits_append (as bs : List Bool) : evBits (as ++ bs) = evBits as ++ evBits bs := List.flatMap_append ..

/-- The bits of FRAME40: the Tuning Word, three zeros, the Phase Word (rule R78). -/
theorem bitsMsbFirst_frame40 (tw : TuningWord) (pw : PhaseWord) :
    bitsMsbFirst (frame40 tw pw) = bitsMsbFirst tw ++ [false, false, false] ++ bitsMsbFirst pw :=
  calc bitsMsbFirst (frame40 tw pw)
    _ = bitsMsbFirst (tw ++ 0#3) ++ bitsMsbFirst pw := bitsMsbFirst_append (tw ++ 0#3) pw
    _ = bitsMsbFirst tw ++ [false, false, false] ++ bitsMsbFirst pw := by rw [bitsMsbFirst_append]; rfl

/-- PROGRAM sends FRAME40 and one strobe (rules R78, R102). -/
theorem evProgram_eq_frame (tw : TuningWord) (pw : PhaseWord) :
    evProgram tw pw = evBits (bitsMsbFirst (frame40 tw pw)) ++ evPulse .strobe := by
  simp [evProgram, bitsMsbFirst_frame40]

/-! The rest of a list from an index on. -/

theorem drop_eq_cons {α : Type} {n : Nat} {a : α} {l l' : List α} (h : l.drop n = a :: l') :
    n < l.length ∧ l.drop (n + 1) = l' := by
  constructor
  · have hlen : l.length - n = l'.length + 1 := by simpa using congrArg List.length h
    omega
  · rw [← List.tail_drop, h, List.tail_cons]

/-! The number of events of each list. -/

@[simp] theorem length_evBits (bs : List Bool) : (evBits bs).length = 3 * bs.length := by
  induction bs with
  | nil => rfl
  | cons b bs ih => simp [ih, evBit, evPulse]; omega

@[simp] theorem length_evProgram (tw : TuningWord) (pw : PhaseWord) : (evProgram tw pw).length = 122 := by
  simp [evProgram_eq_frame, evPulse]

@[simp] theorem length_evPowerDown : evPowerDown.length = 28 := by decide

@[simp] theorem length_evReset : evReset.length = 128 := by simp [evReset, evResetPrologue, evPulse]

@[simp] theorem length_evInit : evInit.length = 4 := rfl

@[simp] theorem length_evTransmitBit (b : Bool) : (evTransmitBit b).length = 3 := rfl

/-- No list is longer than RESET's 128 events, so IX, 8 bits wide, counts through every list. -/
theorem length_latchedEvents_le (s : State) : (latchedEvents s).length ≤ 128 := by
  unfold latchedEvents
  split
  · next op _ => cases op <;> simp [eventsFor]
  · simp

/-! The lines after each list. -/

/-- A bit leaves CLOCK low and STROBE and RESET as they were. -/
theorem quiet_evBits (bs : List Bool) {ls : Lines} (h : Quiet ls) : Quiet (writeLines ls (evBits bs)) := by
  induction bs generalizing ls with
  | nil => exact h
  | cons b bs ih =>
    rw [evBits_cons, writeLines_append]
    exact ih ⟨rfl, h.2⟩

theorem quiet_strobe {ls : Lines} (h : Quiet ls) : Quiet (writeLines ls (evPulse .strobe)) :=
  ⟨h.1, rfl, h.2.2⟩

theorem quiet_evProgram (tw : TuningWord) (pw : PhaseWord) {ls : Lines} (h : Quiet ls) :
    Quiet (writeLines ls (evProgram tw pw)) := by
  rw [evProgram_eq_frame, writeLines_append]
  exact quiet_strobe (quiet_evBits _ h)

theorem quiet_evPowerDown {ls : Lines} (h : Quiet ls) : Quiet (writeLines ls evPowerDown) := by
  rw [evPowerDown, writeLines_append, writeLines_append]
  exact quiet_strobe (quiet_evBits _ (quiet_strobe h))

/-- RESET's three pulse cycles bring CLOCK, RESET and STROBE low from any levels. -/
theorem quiet_evReset (ls : Lines) : Quiet (writeLines ls evReset) := by
  rw [evReset, writeLines_append]
  exact quiet_evProgram 0 0 ⟨rfl, rfl, rfl⟩

theorem quiet_evInit (ls : Lines) : Quiet (writeLines ls evInit) := ⟨rfl, rfl, rfl⟩

/-- A command leaves the lines quiet where LIFE is then not UNINIT: RESET and INIT from any levels, the others from quiet
ones (rule R22). -/
theorem quiet_commandEvents (i : Instr) {life : Life} {ls : Lines} (hq : life ≠ .uninit → Quiet ls)
    (hl : nextLife i.op life ≠ .uninit) : Quiet (writeLines ls (commandEvents i)) := by
  cases i with
  | transmitBit b => exact ⟨rfl, (hq hl).2⟩
  | program fRaw pRaw => exact quiet_evProgram _ _ (hq hl)
  | powerDown => exact quiet_evPowerDown (hq hl)
  | reset => exact quiet_evReset ls
  | init => exact quiet_evInit ls

end Sys2Proof.Machine

/-! SUPPORT. The invariant: each operation keeps it, and so does every step and every tick (rules R20, R22, R31, R33). -/

namespace Sys2Proof.Machine

/-- IX counts through the list of the command in progress without wrapping (rule R31). -/
theorem toNat_ix_emit {s : State} {ev : Event} {evs : List Event} (h : remainingEvents s = ev :: evs) :
    (emit s ev).ix.toNat = s.ix.toNat + 1 := by
  have hlt := (drop_eq_cons h).1
  have hle := length_latchedEvents_le s
  rw [emit_ix]
  bv_omega

theorem remainingEvents_emit {s : State} {ev : Event} {evs : List Event} (h : remainingEvents s = ev :: evs) :
    remainingEvents (emit s ev) = evs := by
  rw [remainingEvents, latchedEvents_emit, toNat_ix_emit h]
  exact (drop_eq_cons h).2

/-! The parts of the invariant. -/

theorem linesFollowTrace_emit {s : State} (ev : Event) (h : LinesFollowTrace s) : LinesFollowTrace (emit s ev) := by
  rw [LinesFollowTrace, emit_lines, emit_trace, writeLines_append, ← h]
  rfl

/-- An event emitted moves from those to come to the lines, so the levels at the command's end stay the same. -/
theorem quietWhenReady_emit {s : State} {ev : Event} {evs : List Event} (h : QuietWhenReady s) (hb : s.busy = true)
    (hr : remainingEvents s = ev :: evs) : QuietWhenReady (emit s ev) := by
  simpa [QuietWhenReady, pendingEvents, hb, hr, remainingEvents_emit hr] using h

theorem sequencerInStep_emit {s : State} {ev : Event} {evs : List Event} (h : SequencerInStep s) (hb : s.busy = true)
    (hr : remainingEvents s = ev :: evs) : SequencerInStep (emit s ev) := by
  intro _
  obtain ⟨hop, -, htake⟩ := h hb
  have hget : (latchedEvents s)[s.ix.toNat]? = some ev := by
    rw [← List.head?_drop]
    exact congrArg List.head? hr
  refine ⟨hop, ?_, ?_⟩
  · rw [toNat_ix_emit hr]
    exact (drop_eq_cons hr).1
  · rw [toNat_ix_emit hr, latchedEvents_emit, emit_trace, List.take_add_one, hget]
    exact (List.suffix_append_inj_of_length_eq rfl).mpr ⟨htake, rfl⟩

/-! The operations keep the invariant. -/

theorem inv_reset : Inv State.reset := by decide

theorem inv_blockReset (s : State) : Inv (blockReset s) := inv_reset

/-- The host's actions are no part of the invariant. -/
theorem inv_consume {s : State} (h : Inv s) : Inv (consume s) := h

theorem inv_illegalCommand {s : State} (h : Inv s) : Inv (illegalCommand s) := h

theorem inv_passBusy {s : State} (h : Inv s) : Inv (passBusy s) := by
  obtain hp | hp := passBusy_cases s
  · rwa [hp]
  · rw [hp]; exact inv_consume h

/-- Acceptance by a ready block: every event of the command is to come, and its end leaves the lines quiet. -/
theorem inv_acceptInstr {s : State} (i : Instr) (h : Inv s) (hb : s.busy = false) : Inv (acceptInstr i s) := by
  obtain ⟨hlines, hquiet, -, -⟩ := h
  have hquiet : s.life ≠ .uninit → Quiet s.lines := by simpa [QuietWhenReady, pendingEvents, hb] using hquiet
  refine ⟨by simpa [LinesFollowTrace] using hlines, ?_, ?_, by simp [HoldOnlyWhenBusy]⟩
  · intro hl
    simpa [pendingEvents, remainingEvents_acceptInstr] using quiet_commandEvents i hquiet (by simpa using hl)
  · intro _
    simp [acceptInstr_ix]

theorem inv_complete {s : State} (h : Inv s) (hr : pendingEvents s = []) : Inv (complete s) := by
  obtain ⟨hlines, hquiet, -, -⟩ := h
  rw [QuietWhenReady, hr] at hquiet
  exact ⟨hlines, hquiet, by simp [SequencerInStep], by simp [HoldOnlyWhenBusy]⟩

theorem inv_emit {s : State} {ev : Event} {evs : List Event} (h : Inv s) (hb : s.busy = true)
    (hr : remainingEvents s = ev :: evs) : Inv (emit s ev) := by
  obtain ⟨hlines, hquiet, hseq, -⟩ := h
  exact ⟨linesFollowTrace_emit ev hlines, quietWhenReady_emit hquiet hb hr, sequencerInStep_emit hseq hb hr,
    by simp [HoldOnlyWhenBusy, hb]⟩

/-- The count of ticks an event still holds is free while a command is in progress. -/
theorem inv_hold {s : State} (n : Nat) (h : Inv s) (hb : s.busy = true) : Inv { s with hold := n } := by
  obtain ⟨hlines, hquiet, hseq, -⟩ := h
  exact ⟨hlines, hquiet, hseq, by simp [HoldOnlyWhenBusy, hb]⟩

theorem inv_nextEvent {s : State} (e : Nat) (h : Inv s) (hb : s.busy = true) : Inv (nextEvent e s) := by
  obtain ⟨hr, hn⟩ | ⟨ev, evs, hr, hn⟩ := nextEvent_cases e s <;> rw [hn]
  · exact inv_complete h (by simp [pendingEvents, hr])
  · exact inv_hold e (inv_emit h hb hr) hb

theorem inv_runTick {s : State} (e : Nat) (h : Inv s) (hb : s.busy = true) : Inv (runTick e s) := by
  obtain ⟨-, hn⟩ | hn := runTick_eq e s <;> rw [hn]
  · exact inv_hold _ h hb
  · exact inv_nextEvent e h hb

/-- The invariant along the events of the command in progress, from any of them to its end. -/
theorem inv_complete_runEvents {evs : List Event} {s : State} (h : Inv s) (hb : s.busy = true)
    (hr : remainingEvents s = evs) : Inv (complete (runEvents evs s)) := by
  induction evs generalizing s with
  | nil => exact inv_complete h (by simp [pendingEvents, hr])
  | cons ev evs ih => exact ih (inv_emit h hb hr) hb (remainingEvents_emit hr)

theorem inv_finish {s : State} (h : Inv s) (hb : s.busy = true) : Inv (finish s) := inv_complete_runEvents h hb rfl

end Sys2Proof.Machine

section
open Sys2Proof Sys2Proof.Machine

/-- Settles O42: each case of a step is an operation that keeps the invariant. -/
theorem stepKeepsTheInvariant : Obligations.StepKeepsTheInvariant := by
  intro s t hi h
  obtain ⟨-, rfl⟩ | ⟨-, ⟨hb, rfl⟩ | ⟨hb, rfl | rfl | ⟨i, rfl⟩⟩⟩ := step_next_cases h
  · exact inv_blockReset _
  · exact inv_finish hi hb
  · exact inv_consume hi
  · exact inv_illegalCommand (inv_consume hi)
  · exact inv_finish (inv_acceptInstr i (inv_consume hi) hb) (acceptInstr_busy ..)

/-- Settles O43: each case of a tick is an operation that keeps the invariant. -/
theorem tickKeepsTheInvariant : Obligations.TickKeepsTheInvariant := by
  intro s t hi h
  obtain ⟨-, rfl⟩ | ⟨-, ⟨hb, rfl⟩ | ⟨hb, rfl | rfl | ⟨i, rfl⟩⟩⟩ := tick_next_cases h
  · exact inv_blockReset _
  · exact inv_passBusy (inv_runTick _ hi hb)
  · exact inv_consume hi
  · exact inv_illegalCommand (inv_consume hi)
  · exact inv_nextEvent _ (inv_acceptInstr i (inv_consume hi) hb) (acceptInstr_busy ..)

/-- Settles O41: nothing is written, LIFE is UNINIT and no command is in progress. -/
theorem resetMeetsTheInvariant : Obligations.ResetMeetsTheInvariant := inv_reset

end

/-! SUPPORT. The reference datapath drives the event list (rule R32): a relation between the datapath and the events it
has yet to drive, which every event keeps. -/

namespace Sys2Proof.Machine

/-- The next `n` bits at SR's top, as shifting left brings them there. -/
def shiftedBits (sr : BitVec 40) : Nat → List Bool
  | 0 => []
  | n + 1 => sr.getLsbD 39 :: shiftedBits (sr <<< 1) n

theorem shiftedBits_eq_map {n : Nat} (hn : n ≤ 40) (sr : BitVec 40) :
    shiftedBits sr n = (List.range n).map fun k => sr.getLsbD (39 - k) := by
  induction n generalizing sr with
  | zero => rfl
  | succ n ih =>
    rw [shiftedBits, ih (by omega), List.range_succ_eq_map, List.map_cons, List.map_map]
    refine congrArg _ (List.map_congr_left fun k hk => ?_)
    have hk : k < n := List.mem_range.mp hk
    have hlo : 39 - k < 40 ∧ ¬39 - k < 1 := by omega
    change (sr <<< 1).getLsbD (39 - k) = sr.getLsbD (39 - (k + 1))
    rw [BitVec.getLsbD_shiftLeft, Nat.sub_sub]
    simp only [hlo, decide_true, decide_false, Bool.not_false, Bool.true_and]

/-- SR shifts out its 40 bits from the top (rule R73). -/
theorem shiftedBits_all (sr : BitVec 40) : shiftedBits sr 40 = bitsMsbFirst sr := shiftedBits_eq_map le_rfl sr

/-- PROGRAM's list as the datapath shifts it out. -/
theorem evProgram_eq_shiftedBits (tw : TuningWord) (pw : PhaseWord) :
    evProgram tw pw = evBits (shiftedBits (frame40 tw pw) 40) ++ evPulse .strobe := by
  rw [evProgram_eq_frame, shiftedBits_all]

theorem evBits_shiftedBits_succ (sr : BitVec 40) (n : Nat) (es : List Event) :
    evBits (shiftedBits sr (n + 1)) ++ es = evBit (sr.getLsbD 39) ++ (evBits (shiftedBits (sr <<< 1) n) ++ es) := by
  rw [shiftedBits, evBits_cons, List.append_assoc]

/-- The events of the phase POST: the commit strobe, if the operation ends with one. -/
def commitOf (op : Op) : List Event := if hasCommit op then evPulse .strobe else []

/-- The events the datapath `d` has yet to drive, at event index `ix`, are `evs`: in PRE the rest of the prologue, the bits
BITCNT counts and the commit; in BITS the rest of the present bit, the other bits and the commit; in POST the rest of the
commit. -/
def DatapathDrives (op : Op) (ix : BitVec 8) (d : Datapath) (evs : List Event) : Prop :=
  match d.ph with
  | .pre =>
    d.sub = 0 ∧ (ix.toNat < (prologueOf op).length ∨ d.bitcnt = 0) ∧ (d.bitcnt = 0 → commitOf op = []) ∧
      evs = (prologueOf op).drop ix.toNat ++ (evBits (shiftedBits d.sr d.bitcnt.toNat) ++ commitOf op)
  | .bits =>
    ∃ n, d.bitcnt.toNat = n + 1 ∧ d.sub.toNat < 3 ∧
      evs = (evBit (d.sr.getLsbD 39)).drop d.sub.toNat ++ (evBits (shiftedBits (d.sr <<< 1) n) ++ commitOf op)
  | .post => evs = (commitOf op).drop d.sub.toNat

theorem lt_three_cases {sub : BitVec 2} (h : sub.toNat < 3) : sub = 0 ∨ sub = 1 ∨ sub = 2 := by
  revert sub; decide

/-- What the relation says of the next event is what the datapath drives. -/
theorem datapathEvent_of_drives {op : Op} {ix : BitVec 8} {d : Datapath} {evs : List Event}
    (h : DatapathDrives op ix d evs) : datapathEvent op ix d = evs.head? := by
  obtain ⟨sr, bitcnt, sub, ph⟩ := d
  cases ph with
  | pre =>
    obtain ⟨-, hix | hcnt, hcommit, rfl⟩ := h
    · simp [datapathEvent, List.head?_append, hix]
    · simp only at hcnt hcommit
      simp [datapathEvent, hcnt, hcommit, shiftedBits]
  | bits =>
    obtain ⟨n, -, hsub, rfl⟩ := h
    obtain rfl | rfl | rfl := lt_three_cases hsub <;> rfl
  | post =>
    obtain rfl := h
    simp only [datapathEvent, commitOf, List.head?_drop]
    split <;> simp

theorem length_prologueOf_le (op : Op) : (prologueOf op).length ≤ 6 := by cases op <;> decide

theorem length_commitOf_le (op : Op) : (commitOf op).length ≤ 2 := by cases op <;> decide

section Advance
variable {op : Op} {ix : BitVec 8} {sr : BitVec 40} {bitcnt : BitVec 6} {sub : BitVec 2} {e : Event} {es : List Event}

/-- In PRE one event of the prologue goes out, and BITS follows the last one if there are bits to send. -/
theorem drives_advance_pre (h : DatapathDrives op ix ⟨sr, bitcnt, sub, .pre⟩ (e :: es)) :
    DatapathDrives op (ix + 1) (advanceDatapath op ix ⟨sr, bitcnt, sub, .pre⟩) es := by
  obtain ⟨hsub, hix, hcommit, hes⟩ := h
  simp only at hsub hix hcommit hes
  have hlt : ix.toNat < (prologueOf op).length := by
    refine hix.elim id fun hcnt => ?_
    have hes : (prologueOf op).drop ix.toNat = e :: es := by simpa [hcommit hcnt, hcnt, shiftedBits] using hes.symm
    exact (drop_eq_cons hes).1
  have hix1 : (ix + 1).toNat = ix.toNat + 1 := by
    have := length_prologueOf_le op
    bv_omega
  rw [List.drop_eq_getElem_cons hlt, List.cons_append] at hes
  obtain ⟨-, rfl⟩ := List.cons.inj hes
  by_cases hlast : ix.toNat + 1 = (prologueOf op).length ∧ bitcnt ≠ 0
  · obtain ⟨n, hn⟩ : ∃ n, bitcnt.toNat = n + 1 := Nat.exists_eq_succ_of_ne_zero (by bv_omega)
    rw [advanceDatapath, if_pos hlast, hsub]
    refine ⟨n, hn, Nat.zero_lt_succ 2, ?_⟩
    rw [List.drop_eq_nil_of_le hlast.1.ge, hn, List.nil_append, evBits_shiftedBits_succ]
    rfl
  · rw [advanceDatapath, if_neg hlast]
    refine ⟨hsub, ?_, hcommit, by rw [hix1]⟩
    rw [hix1]
    by_cases hcnt : bitcnt = 0
    · exact .inr hcnt
    · exact .inl (Nat.lt_of_le_of_ne hlt fun heq => hlast ⟨heq, hcnt⟩)

/-- In BITS one write of the present bit goes out; after the third the next bit is at SR's top, or POST follows the
last. -/
theorem drives_advance_bits (h : DatapathDrives op ix ⟨sr, bitcnt, sub, .bits⟩ (e :: es)) :
    DatapathDrives op (ix + 1) (advanceDatapath op ix ⟨sr, bitcnt, sub, .bits⟩) es := by
  obtain ⟨n, hn, hsub, hes⟩ := h
  simp only at hn hsub
  obtain rfl | rfl | rfl := lt_three_cases hsub <;> obtain ⟨-, rfl⟩ := List.cons.inj hes
  · exact ⟨n, hn, Nat.one_lt_ofNat, rfl⟩
  · exact ⟨n, hn, Nat.lt_add_one 2, rfl⟩
  · cases n with
    | zero =>
      obtain rfl : bitcnt = 1 := BitVec.eq_of_toNat_eq hn
      rfl
    | succ n =>
      have hmore : bitcnt ≠ 1 := by rintro rfl; simp at hn
      have hcnt : (bitcnt - 1).toNat = n + 1 := by bv_omega
      rw [advanceDatapath, if_pos rfl, if_neg hmore]
      exact ⟨n, hcnt, Nat.zero_lt_succ 2, rfl⟩

/-- In POST one write of the commit strobe goes out. -/
theorem drives_advance_post (h : DatapathDrives op ix ⟨sr, bitcnt, sub, .post⟩ (e :: es)) :
    DatapathDrives op (ix + 1) (advanceDatapath op ix ⟨sr, bitcnt, sub, .post⟩) es := by
  obtain ⟨hlt, hrest⟩ := drop_eq_cons (Eq.symm h)
  simp only at hlt hrest
  have hsub : (sub + 1).toNat = sub.toNat + 1 := by
    have := length_commitOf_le op
    bv_omega
  change es = (commitOf op).drop (sub + 1).toNat
  rw [hsub, hrest]

end Advance

/-- Driving one event and moving on leaves the rest to drive. -/
theorem drives_advance {op : Op} {ix : BitVec 8} {d : Datapath} {e : Event} {es : List Event}
    (h : DatapathDrives op ix d (e :: es)) : DatapathDrives op (ix + 1) (advanceDatapath op ix d) es := by
  obtain ⟨sr, bitcnt, sub, ph⟩ := d
  cases ph with
  | pre => exact drives_advance_pre h
  | bits => exact drives_advance_bits h
  | post => exact drives_advance_post h

/-- At acceptance the datapath has the whole list of the command to drive. -/
theorem drives_acceptInstr (i : Instr) (s : State) :
    DatapathDrives i.op (acceptInstr i s).ix (acceptInstr i s).dp (commandEvents i) := by
  cases i with
  | transmitBit b =>
    have htop : (BitVec.ofBool b ++ 0#39 : BitVec 40).getLsbD 39 = b := by revert b; decide
    exact ⟨0, rfl, Nat.zero_lt_succ 2, (congrArg evBit htop).symm⟩
  | program fRaw pRaw =>
    refine ⟨39, rfl, Nat.zero_lt_succ 2, ?_⟩
    exact (evProgram_eq_shiftedBits _ _).trans (evBits_shiftedBits_succ ..)
  | powerDown =>
    have hlist : evPowerDown =
        evPulse .strobe ++ (evBits (shiftedBits (frame8 ++ 0#32 : BitVec 40) 8) ++ commitOf .powerDown) := by decide
    exact ⟨rfl, .inl Nat.two_pos, fun h => absurd h (by decide : (8 : BitVec 6) ≠ 0), hlist⟩
  | reset =>
    exact ⟨rfl, .inl (Nat.zero_lt_succ 5), fun h => absurd h (by decide : (40 : BitVec 6) ≠ 0),
      congrArg (evResetPrologue ++ ·) (evProgram_eq_shiftedBits 0 0)⟩
  | init => exact ⟨rfl, .inl (Nat.zero_lt_succ 3), fun _ => rfl, rfl⟩

/-- The datapath stays with the list along any run of events of the command in the latches. -/
theorem drives_runEvents {op : Op} (es fs : List Event) {s : State} (hop : opOfCode s.opL = some op)
    (h : DatapathDrives op s.ix s.dp (es ++ fs)) :
    DatapathDrives op (runEvents es s).ix (runEvents es s).dp fs := by
  induction es generalizing s with
  | nil => exact h
  | cons e es ih =>
    refine ih hop ?_
    rw [emit_ix, emit_dp, stepDatapath, hop]
    exact drives_advance h

end Sys2Proof.Machine

section
open Sys2Proof Sys2Proof.Machine

/-- Settles O50: after `k` events the datapath has the rest of the list to drive, whose first event is the k-th. -/
theorem datapathDrivesTheEventList : Obligations.DatapathDrivesTheEventList := by
  intro i s k _
  have hop : opOfCode (acceptInstr i s).opL = some i.op := by rw [acceptInstr_opL, opOfCode_opCode]
  have hall : DatapathDrives i.op (acceptInstr i s).ix (acceptInstr i s).dp
      ((commandEvents i).take k ++ (commandEvents i).drop k) := by
    rw [List.take_append_drop]
    exact drives_acceptInstr i s
  rw [datapathEvent_of_drives (drives_runEvents _ _ hop hall), List.head?_drop]

end

/-! SUPPORT. The remaining statements of the family: reset, the flags, the latches, STATUS, the trace and the one stop. -/

namespace Sys2Proof.Machine

/-- A command adds its own event list to the trace and nothing else (rule R155). -/
theorem exec_trace {i : Instr} {s t : State} (h : exec i s = .next t) : t.trace = s.trace ++ commandEvents i := by
  obtain rfl := (exec_eq_next_iff i s t).mp h
  rw [finish_trace, remainingEvents_acceptInstr, acceptInstr_trace]

/-- STATUS is its five fields side by side (rule R27). -/
theorem status_fields (s : State) :
    (status s).getLsbD 0 = s.busy ∧ (status s).extractLsb' 1 2 = lifeBits s.life ∧
      (status s).getLsbD 3 = s.seqErr ∧ (status s).getLsbD 4 = s.cmdErr ∧ (status s).extractLsb' 5 3 = 0#3 := by
  unfold status
  generalize s.busy = busy, lifeBits s.life = life, s.seqErr = seqErr, s.cmdErr = cmdErr
  revert busy life seqErr cmdErr
  decide

/-- The numbers that name no operation (rule R65). -/
theorem opOfCode_eq_none_iff (c : BitVec 4) : opOfCode c = none ↔ c = 0 ∨ 6 ≤ c.toNat := by
  revert c; decide

end Sys2Proof.Machine

section
open Sys2Proof Sys2Proof.Machine

/-- Settles O3: a step or a tick with block reset answers the reset state, and without one LIFE moves by rule R114's table
alone. -/
theorem onlyBlockResetReturnsToUninit : Obligations.OnlyBlockResetReturnsToUninit := by
  intro s t h
  obtain ⟨hr, rfl⟩ | ⟨hr, hflags⟩ := next_flags_cases h
  · exact ⟨fun _ => rfl, fun hn => absurd hr hn⟩
  · refine ⟨fun hn => absurd hn hr, fun _ hl => ?_⟩
    obtain ⟨hlife, -⟩ | ⟨hlife, -⟩ | ⟨i, hlife, -⟩ := hflags <;> rw [hlife]
    · exact hl
    · exact hl
    · rw [acceptInstr_life]
      exact nextLife_ne_uninit i.op hl

/-- Settles O4: acceptance adds to SEQ_ERR, an illegal word sets CMD_ERR, and nothing else moves either. -/
theorem errorFlagsAreSticky : Obligations.ErrorFlagsAreSticky := by
  intro s t hr h
  obtain ⟨hr', -⟩ | ⟨-, hflags⟩ := next_flags_cases h
  · exact absurd hr' hr
  · obtain ⟨-, hseq, hcmd⟩ | ⟨-, hseq, hcmd⟩ | ⟨i, -, hseq, hcmd⟩ := hflags <;> rw [hseq, hcmd]
    · exact ⟨id, id⟩
    · exact ⟨id, fun _ => rfl⟩
    · exact ⟨fun hs => by simp [hs], fun hc => by simpa using hc⟩

/-- Settles O37: whatever the state, the events added are the command's own list. -/
theorem eventsDependOnTheCommandAlone : Obligations.EventsDependOnTheCommandAlone := by
  intro i s t s' t' hs ht
  exact ⟨commandEvents i, exec_trace hs, exec_trace ht, rfl⟩

/-- Settles O46: a step adds the events it runs, a tick the next one or none. -/
theorem traceOnlyGrows : Obligations.TraceOnlyGrows := by
  intro s t hr
  constructor <;> intro h
  · obtain ⟨hr', -⟩ | ⟨-, ⟨-, rfl⟩ | ⟨-, rfl | rfl | ⟨i, rfl⟩⟩⟩ := step_next_cases h
    · exact absurd hr' hr
    · exact ⟨_, (finish_trace s).symm⟩
    · exact List.prefix_rfl
    · exact List.prefix_rfl
    · rw [finish_trace, acceptInstr_trace]
      exact List.prefix_append ..
  · obtain ⟨hr', -⟩ | ⟨-, ⟨-, rfl⟩ | ⟨-, rfl | rfl | ⟨i, rfl⟩⟩⟩ := tick_next_cases h
    · exact absurd hr' hr
    · rw [passBusy_trace]
      exact runTick_trace_cases _ s
    · exact .inl rfl
    · exact .inl rfl
    · rw [← consume_trace s, ← acceptInstr_trace i (consume s)]
      exact nextEvent_trace_cases _ _

/-- Settles O1: each field of the reset state has the table's value, and UNKNOWN admits both levels. -/
theorem resetLeavesTheTablesValues : Obligations.ResetLeavesTheTablesValues := by
  refine ⟨fun l => ?_, fun l b => ?_, rfl, rfl, rfl, rfl, rfl, rfl, rfl, rfl⟩
  · cases l <;> rfl
  · cases l <;> rfl

/-- Settles O27: acceptance writes the command's latches and sets IX to 0, and each event of its list counts IX up. -/
theorem commandsLeaveTheirLatches : Obligations.CommandsLeaveTheirLatches := by
  intro i s
  refine ⟨finish (acceptInstr i s), exec_finish_accept i s, ?_⟩
  cases i <;> simp [acceptInstr, opCode]

/-- Settles O40: every bit is a field's, and LIFE has three codes. -/
theorem statusShowsItsFields : Obligations.StatusShowsItsFields := by
  refine ⟨rfl, fun s => ?_⟩
  obtain ⟨hbusy, hlife, hseq, hcmd, hzero⟩ := status_fields s
  refine ⟨hbusy, ?_, ?_, hseq, hcmd, hzero⟩
  · rw [hlife]
    cases s.life <;> rfl
  · rw [hlife]
    cases s.life <;> decide

/-- Settles O45: only the busy step can stop. -/
theorem stopOnlyOnAReservedLatch : Obligations.StopOnlyOnAReservedLatch := by
  intro s
  rw [← rstPin_eq_false_iff, ← opOfCode_eq_none_iff, ← resume_eq_fault_iff]
  obtain ⟨hr, hs⟩ | ⟨hr, hb, hs⟩ | ⟨hr, hb, -, hs⟩ | ⟨hr, hb, w, why, -, -, hs⟩ | ⟨hr, hb, w, i, -, -, hs⟩ :=
    step_cases s <;> rw [hs]
  · simp [hr]
  · simp [hr, hb, resume_ne_refused]
  · simp [hb]
  · simp [hb]
  · simp [hb, exec_finish_accept]

end

/-! SUPPORT. The command port: a well-formed instruction's word decodes to it, and what stands at the port, with the
step and the tick it gives, for each kind of host action (rules R43, R59, R71). -/

namespace Sys2Proof

/-! The decoder reads back what the encoder wrote. -/

/-- A word with RSV = 0 and an operation's number in OP decodes to that operation with the operands of its fields. -/
theorem decode_of_fields {w : CmdWord} {op : Op} (hrsv : wordRsv w = 0) (hop : wordOp w = opCode op) :
    decode w = .command (operandsOf op w) := by
  rw [decode, if_neg (not_not_intro hrsv), hop, Machine.opOfCode_opCode]

/-- PROGRAM's operands come back because the fields hold them in full range (rules R68, R69). -/
theorem operandsOf_encode {i : Instr} (h : i.wellFormed = true) : operandsOf i.op (encode i) = i := by
  cases i with
  | program fRaw pRaw =>
    obtain ⟨⟨hflo, hfhi⟩, hplo, hphi⟩ : FreqInRange fRaw ∧ PhaseInRange pRaw := by simpa [Instr.wellFormed] using h
    simp [encode, operandsOf, Instr.op, BitVec.toInt_ofInt_eq_self (w := 64) (by decide) hflo hfhi,
      BitVec.toInt_ofInt_eq_self (w := 32) (by decide) hplo hphi]
  | transmitBit b => simp [encode, operandsOf, Instr.op]
  | powerDown => rfl
  | reset => rfl
  | init => rfl

/-- The OP and RSV fields of every encoded instruction, from the lemma per constructor. -/
theorem encodedFields (i : Instr) : wordOp (encode i) = opCode i.op ∧ wordRsv (encode i) = 0 := by
  cases i with
  | transmitBit b => exact Laws.EncodedFields.transmitBit b
  | program fRaw pRaw => exact Laws.EncodedFields.program fRaw pRaw
  | powerDown => exact Laws.EncodedFields.powerDown
  | reset => exact Laws.EncodedFields.reset
  | init => exact Laws.EncodedFields.init

theorem decode_encode {i : Instr} (h : i.wellFormed = true) : decode (encode i) = .command i := by
  obtain ⟨hop, hrsv⟩ := encodedFields i
  rw [decode_of_fields hrsv hop, operandsOf_encode h]

end Sys2Proof

namespace Sys2Proof.Machine

/-! What stands at the port. -/

theorem offeredWord_eq_some_iff (s : State) (w : CmdWord) :
    offeredWord s = some w ↔ s.inputs.head? = some (.offer w) := by
  unfold offeredWord
  split <;> simp_all

theorem offeredWord_eq_none_iff (s : State) : offeredWord s = none ↔ ∀ w, s.inputs.head? ≠ some (.offer w) := by
  simp [Option.eq_none_iff_forall_ne_some, offeredWord_eq_some_iff]

section Port
variable {s : State}

theorem portEvent_busy (hb : s.busy = true) (hr : s.inputs.head? ≠ some .blockReset) : portEvent s = .busy := by
  rw [portEvent, (rstPin_eq_false_iff s).mpr hr, hb]
  rfl

theorem portEvent_quiet (hb : s.busy = false) (hr : s.inputs.head? ≠ some .blockReset)
    (hw : ∀ w, s.inputs.head? ≠ some (.offer w)) : portEvent s = .quiet := by
  rw [portEvent, (rstPin_eq_false_iff s).mpr hr, hb, (offeredWord_eq_none_iff s).mpr hw]
  rfl

theorem portEvent_command {w : CmdWord} {i : Instr} (hb : s.busy = false) (hw : s.inputs.head? = some (.offer w))
    (hd : decode w = .command i) : portEvent s = .command i := by
  rw [portEvent, (rstPin_eq_false_iff s).mpr (by simp [hw]), hb, (offeredWord_eq_some_iff s w).mpr hw]
  simp [hd]

/-! The step and the tick they give. -/

/-- With CMD_VALID = 0 a ready block does nothing, and the host's action is over. -/
theorem step_tick_quiet (hb : s.busy = false) (hr : s.inputs.head? ≠ some .blockReset)
    (hw : ∀ w, s.inputs.head? ≠ some (.offer w)) : step s = .next (consume s) ∧ tick s = .next (consume s) := by
  rw [step, tick, tickWith, portEvent_quiet hb hr hw]
  exact ⟨rfl, rfl⟩

/-- A ready block offered a legal word accepts and runs it in one step. -/
theorem step_command {w : CmdWord} {i : Instr} (hb : s.busy = false) (hw : s.inputs.head? = some (.offer w))
    (hd : decode w = .command i) : step s = .next (finish (acceptInstr i (consume s))) := by
  rw [step, portEvent_command hb hw hd]
  exact exec_finish_accept i (consume s)

theorem step_busy (hb : s.busy = true) (hr : s.inputs.head? ≠ some .blockReset)
    (hop : (opOfCode s.opL).isSome = true) : step s = .next (finish s) := by
  rw [step, portEvent_busy hb hr]
  exact (resume_eq_next_iff s (finish s)).mpr ⟨hop, rfl⟩

theorem eq_of_tick_busy {t : State} (hb : s.busy = true) (hr : s.inputs.head? ≠ some .blockReset)
    (h : tick s = .next t) : t = passBusy (runTick Config.eventTicks s) := by
  obtain ⟨hr', -⟩ | ⟨-, ⟨-, ht⟩ | ⟨hb', -⟩⟩ := tick_next_cases h
  · exact absurd hr' hr
  · exact ht
  · simp [hb] at hb'

theorem runSteps_succ {t : State} (n : Nat) (h : step s = .next t) : runSteps (n + 1) s = runSteps n t := by
  rw [runSteps, h]

/-! The host's actions are no part of the block. -/

theorem consume_of_nil (h : s.inputs = []) : consume s = s := by
  rw [consume, h, List.tail_nil, ← h]

theorem consume_of_cons {a : HostInput} {rest : List HostInput} (h : s.inputs = a :: rest) :
    consume s = { s with inputs := rest } := by
  rw [consume, h, List.tail_cons]

end Port

@[simp] theorem acceptInstr_inputs (i : Instr) (s : State) : (acceptInstr i s).inputs = s.inputs := by cases i <;> rfl

/-- An offered word waits over a busy tick (rule R43). -/
theorem passBusy_of_offer {s : State} {w : CmdWord} (h : s.inputs.head? = some (.offer w)) : passBusy s = s := by
  rw [passBusy, h]

/-- The same block with another host: what the host does from here on is `ins`. -/
def State.withInputs (s : State) (ins : List HostInput) : State := { s with inputs := ins }

theorem passBusy_withInputs (s : State) (ins : List HostInput) : (passBusy s).withInputs ins = s.withInputs ins := by
  obtain h | h := passBusy_cases s <;> rw [h]
  rfl

@[simp] theorem remainingEvents_withInputs (s : State) (ins : List HostInput) :
    remainingEvents (s.withInputs ins) = remainingEvents s := rfl

theorem nextEvent_withInputs (e : Nat) (s : State) (ins : List HostInput) :
    nextEvent e (s.withInputs ins) = (nextEvent e s).withInputs ins := by
  obtain ⟨hr, hs⟩ | ⟨ev, evs, hr, hs⟩ := nextEvent_cases e s <;>
    rw [hs, nextEvent, remainingEvents_withInputs, hr] <;> rfl

/-- A tick of the command in progress neither reads nor writes the host's actions. -/
theorem runTick_withInputs (e : Nat) (s : State) (ins : List HostInput) :
    runTick e (s.withInputs ins) = (runTick e s).withInputs ins := by
  by_cases h : 1 < s.hold
  · rw [show runTick e s = { s with hold := s.hold - 1 } from if_pos h]
    exact if_pos h
  · rw [show runTick e s = nextEvent e s from if_neg h, ← nextEvent_withInputs]
    exact if_neg h

/-- Whatever the host does, the block itself after a busy tick is the same. -/
theorem busyTick_withInputs (e : Nat) (s : State) (ins ins' : List HostInput) :
    (passBusy (runTick e (s.withInputs ins))).withInputs ins' = (runTick e s).withInputs ins' := by
  rw [passBusy_withInputs, runTick_withInputs]
  rfl

end Sys2Proof.Machine

section
open Sys2Proof Sys2Proof.Machine

/-- Settles O36: each word offered is one step, which adds the command's own events and leaves a ready block offered the
rest. -/
theorem commandsRunInOrderWithoutOverlap : Obligations.CommandsRunInOrderWithoutOverlap := by
  intro is
  induction is with
  | nil => exact fun s _ _ hin => ⟨s, rfl, by simp, hin⟩
  | cons i is ih =>
    intro s hwf hb hin
    obtain ⟨hi, his⟩ := List.forall_mem_cons.mp hwf
    have hstep : step s = .next (finish (acceptInstr i (consume s))) :=
      step_command hb (by simp [hin]) (decode_encode hi)
    obtain ⟨t, hrun, htrace, hdone⟩ := ih (finish (acceptInstr i (consume s))) his (finish_busy _) (by simp [hin])
    refine ⟨t, (runSteps_succ is.length hstep).trans hrun, ?_, hdone⟩
    rw [htrace, finish_trace, remainingEvents_acceptInstr, acceptInstr_trace, consume_trace, List.flatMap_cons,
      List.append_assoc]

/-- Settles O49: the tick of the command in progress is the same for every host, and an offered word waits over it. -/
theorem portIsIgnoredWhileBusy : Obligations.PortIsIgnoredWhileBusy := by
  intro s t u ins ins' hb hr hr' ht hu
  obtain rfl := eq_of_tick_busy (s := s.withInputs ins) hb hr ht
  obtain rfl := eq_of_tick_busy (s := s.withInputs ins') hb hr' hu
  refine ⟨(busyTick_withInputs _ s ins []).trans (busyTick_withInputs _ s ins' []).symm, ?_⟩
  rintro w rest rfl
  rw [runTick_withInputs, passBusy_of_offer rfl]
  rfl

/-- Settles O38: a wait, a poll and an empty port are the quiet case of the step and of the tick. -/
theorem waitingChangesNothing : Obligations.WaitingChangesNothing := by
  refine fun s hb => ⟨fun hin => ?_, fun a rest ha hin => ?_⟩
  · have h := step_tick_quiet hb (by simp [hin]) (by simp [hin])
    rwa [consume_of_nil hin] at h
  · rw [← consume_of_cons hin]
    obtain rfl | rfl := ha <;> exact step_tick_quiet hb (by simp [hin]) (by simp [hin])

/-- Settles O39: the step is `finish`, whose fields are known. -/
theorem busyStepCompletesTheCommand : Obligations.BusyStepCompletesTheCommand := by
  intro s hb hr hop
  exact ⟨finish s, step_busy hb hr hop, finish_busy s, finish_trace s, finish_lines s, finish_life s, finish_seqErr s,
    finish_cmdErr s, finish_opL s, finish_twL s, finish_pwL s, finish_bitL s, finish_inputs s⟩

end

/-! SUPPORT. The command word: a word is its five fields, what each field is as a number, when a word decodes to a
command, and the fields each operation reads as a mask (rules R63, R65, R66, R71). -/

namespace Sys2Proof

/-! A word is its five fields. -/

theorem packWord_fields (w : CmdWord) :
    packWord (wordFreq w) (wordPhase w) (wordRsv w) (wordBit w) (wordOp w) = w := by
  refine BitVec.eq_of_getLsbD_eq fun k hk => ?_
  rw [getLsbD_packWord]
  simp only [wordFreq, wordPhase, wordRsv, wordBit, wordOp, BitVec.getLsbD_extractLsb']
  split_ifs with h4 h5 h32 h64
  · simp [h4]
  · rw [show k = 4 by omega]
  · simp [show k - 5 < 27 by omega, show 5 + (k - 5) = k by omega]
  · simp [show k - 32 < 32 by omega, show 32 + (k - 32) = k by omega]
  · simp [show k - 64 < 64 by omega, show 64 + (k - 64) = k by omega]

/-- A mask of the five fields acts on each field of a word by itself. -/
theorem and_packWord (w : CmdWord) (freq : BitVec 64) (phase : BitVec 32) (rsv : BitVec 27) (bit : Bool)
    (op : BitVec 4) :
    w &&& packWord freq phase rsv bit op =
      packWord (wordFreq w &&& freq) (wordPhase w &&& phase) (wordRsv w &&& rsv) (wordBit w && bit)
        (wordOp w &&& op) := by
  refine BitVec.eq_of_getLsbD_eq fun k hk => ?_
  conv_lhs => rw [← packWord_fields w]
  simp only [BitVec.getLsbD_and, getLsbD_packWord]
  split_ifs <;> rfl

theorem packWord_inj_opRsv {rsv rsv' : BitVec 27} {op op' : BitVec 4} :
    packWord 0#64 0#32 rsv false op = packWord 0#64 0#32 rsv' false op' ↔ rsv = rsv' ∧ op = op' := by
  refine ⟨fun h => ⟨?_, ?_⟩, fun ⟨hrsv, hop⟩ => by rw [hrsv, hop]⟩
  · simpa using congrArg wordRsv h
  · simpa using congrArg wordOp h

/-! The fields as numbers. -/

theorem toNat_wordOp (w : CmdWord) : (wordOp w).toNat = w.toNat % 16 := by
  simp [wordOp]

theorem toNat_wordRsv (w : CmdWord) : (wordRsv w).toNat = w.toNat / 2 ^ 5 % 2 ^ 27 := by
  rw [wordRsv, BitVec.extractLsb'_toNat, Nat.shiftRight_eq_div_pow]

theorem toNat_wordPhase (w : CmdWord) : (wordPhase w).toNat = w.toNat / 2 ^ 32 % 2 ^ 32 := by
  rw [wordPhase, BitVec.extractLsb'_toNat, Nat.shiftRight_eq_div_pow]

theorem toNat_wordFreq (w : CmdWord) : (wordFreq w).toNat = w.toNat / 2 ^ 64 := by
  rw [wordFreq, BitVec.extractLsb'_toNat, Nat.shiftRight_eq_div_pow, Nat.mod_eq_of_lt (by omega)]

theorem wordBit_eq_decide (w : CmdWord) : wordBit w = decide (w.toNat / 2 ^ 4 % 2 = 1) := by
  rw [wordBit, ← BitVec.testBit_toNat, Nat.testBit_eq_decide_div_mod_eq]

theorem wordRsv_eq_zero_iff (w : CmdWord) : wordRsv w = 0 ↔ w.toNat / 2 ^ 5 % 2 ^ 27 = 0 := by
  rw [← BitVec.toNat_inj, toNat_wordRsv]
  rfl

theorem wordOp_eq_opCode_iff (w : CmdWord) (op : Op) : wordOp w = opCode op ↔ w.toNat % 16 = (opCode op).toNat := by
  rw [← BitVec.toNat_inj, toNat_wordOp]

/-- Two's complement with the sign read off the number itself (rules R68, R69). -/
theorem toInt_eq_ite_toNat_lt {n : Nat} (x : BitVec (n + 1)) :
    x.toInt = if x.toNat < 2 ^ n then (x.toNat : Int) else (x.toNat : Int) - 2 ^ (n + 1) := by
  have hsign : 2 * x.toNat < 2 ^ (n + 1) ↔ x.toNat < 2 ^ n := by omega
  simp [BitVec.toInt_eq_toNat_cond, hsign]

/-! Decoding. -/

@[simp] theorem op_operandsOf (op : Op) (w : CmdWord) : (operandsOf op w).op = op := by cases op <;> rfl

/-- A word is a command exactly when RSV is 0 and OP names its operation, and its operands are the word's. -/
theorem decode_eq_command_iff {w : CmdWord} {i : Instr} :
    decode w = .command i ↔ wordRsv w = 0 ∧ wordOp w = opCode i.op ∧ i = operandsOf i.op w := by
  constructor
  · intro h
    unfold decode at h
    split at h
    · cases h
    · next hrsv =>
      split at h
      · cases h
      · next op hop =>
        obtain rfl := Decoded.command.inj h
        rw [op_operandsOf]
        exact ⟨not_not.mp hrsv, (Machine.opCode_of_opOfCode hop).symm, rfl⟩
  · rintro ⟨hrsv, hop, hi⟩
    rw [decode_of_fields hrsv hop, ← hi]

theorem decode_illegal {w : CmdWord} (h : wordRsv w ≠ 0 ∨ opOfCode (wordOp w) = none) :
    ∃ why, decode w = .illegal why := by
  unfold decode
  by_cases hrsv : wordRsv w ≠ 0
  · exact ⟨_, if_pos hrsv⟩
  · rw [if_neg hrsv, h.resolve_left hrsv]
    exact ⟨_, rfl⟩

/-- Decoding from the numbers in RSV and OP. -/
theorem decode_of_numbers {w : CmdWord} (op : Op)
    (h : w.toNat / 2 ^ 5 % 2 ^ 27 = 0 ∧ w.toNat % 16 = (opCode op).toNat) :
    decode w = .command (operandsOf op w) :=
  decode_of_fields ((wordRsv_eq_zero_iff w).mpr h.1) ((wordOp_eq_opCode_iff w op).mpr h.2)

/-! The fields an operation reads. -/

/-- OP, RSV and the fields `op` reads, as a mask over the command word (rule R66). -/
def readMask : Op → CmdWord
  | .transmitBit => packWord 0 0 (BitVec.allOnes 27) true (BitVec.allOnes 4)
  | .program => packWord (BitVec.allOnes 64) (BitVec.allOnes 32) (BitVec.allOnes 27) false (BitVec.allOnes 4)
  | .powerDown => packWord 0 0 (BitVec.allOnes 27) false (BitVec.allOnes 4)
  | .reset => packWord 0 0 (BitVec.allOnes 27) false (BitVec.allOnes 4)
  | .init => packWord 0 0 (BitVec.allOnes 27) false (BitVec.allOnes 4)

/-- The encoder writes back the fields the operation reads and zero in the others. -/
theorem encode_operandsOf {w : CmdWord} {op : Op} (hrsv : wordRsv w = 0) (hop : wordOp w = opCode op) :
    encode (operandsOf op w) = w &&& readMask op := by
  cases op <;> simp [-BitVec.reduceAllOnes, readMask, and_packWord, encode, operandsOf, hrsv, hop]

theorem wellFormed_program_iff (fRaw pRaw : Int) :
    (Instr.program fRaw pRaw).wellFormed = true ↔ FreqInRange fRaw ∧ PhaseInRange pRaw := by
  simp [Instr.wellFormed]

/-- The fields PROGRAM reads are as wide as its operands' ranges (rules R68, R69). -/
theorem wellFormed_operandsOf (op : Op) (w : CmdWord) : (operandsOf op w).wellFormed = true := by
  cases op with
  | program =>
    exact (wellFormed_program_iff _ _).mpr
      ⟨⟨BitVec.le_toInt _, BitVec.toInt_lt⟩, BitVec.le_toInt _, BitVec.toInt_lt⟩
  | transmitBit => rfl
  | powerDown => rfl
  | reset => rfl
  | init => rfl

/-- Words with the same fields of those `op` reads give it the same operands. -/
theorem operandsOf_congr {op : Op} {v w : CmdWord} (hbit : op = .transmitBit → wordBit v = wordBit w)
    (hwords : op = .program → wordFreq v = wordFreq w ∧ wordPhase v = wordPhase w) :
    operandsOf op v = operandsOf op w := by
  cases op with
  | transmitBit => rw [operandsOf, operandsOf, hbit rfl]
  | program =>
    obtain ⟨hfreq, hphase⟩ := hwords rfl
    rw [operandsOf, operandsOf, hfreq, hphase]
  | powerDown => rfl
  | reset => rfl
  | init => rfl

/-- A row of the opcode table matches a word exactly when RSV is 0 and OP is the row's (rules R65, R67). -/
theorem matchesRow_iff (op : Op) (w : CmdWord) :
    w &&& 0xFFFFFFEF = packWord 0 0 0 false (opCode op) ↔ wordRsv w = 0 ∧ wordOp w = opCode op := by
  have hmask : (0xFFFFFFEF : CmdWord) = packWord 0 0 (BitVec.allOnes 27) false (BitVec.allOnes 4) := rfl
  simp [-BitVec.reduceAllOnes, hmask, and_packWord, packWord_inj_opRsv]

/-- For a command without operands the row matches exactly the words that decode to it. -/
theorem matchesRow_iff_decode {i : Instr} {w : CmdWord} (hi : operandsOf i.op w = i) :
    w &&& 0xFFFFFFEF = packWord 0 0 0 false (opCode i.op) ↔ decode w = .command i := by
  rw [matchesRow_iff, decode_eq_command_iff, hi]
  simp

end Sys2Proof

section
open Sys2Proof Sys2Proof.Machine

/-- Settles O7: the encoder writes OP and zero in RSV, and each operand comes back from its field. -/
theorem decodeOfEncodeIsTheInstruction : Obligations.DecodeOfEncodeIsTheInstruction := fun _ h => decode_encode h

/-- Settles O5: the fields are the word's numbers, and OP and RSV choose the outcome. -/
theorem decodeReadsTheFieldsOfTheWord : Obligations.DecodeReadsTheFieldsOfTheWord := by
  refine fun w => ⟨fun h => ?_, fun h => ?_, decode_of_numbers .powerDown, decode_of_numbers .reset,
    decode_of_numbers .init, fun h => decode_illegal ?_⟩
  · rw [decode_of_numbers .transmitBit h, operandsOf, wordBit_eq_decide]
  · rw [decode_of_numbers .program h, operandsOf, toInt_eq_ite_toNat_lt, toInt_eq_ite_toNat_lt, toNat_wordFreq,
      toNat_wordPhase]
  · rwa [ne_eq, wordRsv_eq_zero_iff, opOfCode_eq_none_iff, ← BitVec.toNat_inj, toNat_wordOp]

/-- Settles O8: the instruction's operands are the word's fields, and the encoder writes those alone. -/
theorem encodeOfDecodeKeepsTheReadFields : Obligations.EncodeOfDecodeKeepsTheReadFields := by
  intro w i h
  obtain ⟨hrsv, hop, hi⟩ := decode_eq_command_iff.mp h
  refine ⟨hi ▸ wellFormed_operandsOf i.op w, ?_⟩
  have henc : encode i = w &&& readMask i.op := (congrArg encode hi).trans (encode_operandsOf hrsv hop)
  cases i <;> exact henc

/-- Settles O9: OP and RSV choose the outcome, and the operands come from the fields that are read. -/
theorem unreadFieldsHaveNoEffect : Obligations.UnreadFieldsHaveNoEffect := by
  intro v w hop hrsv hbit hwords
  unfold decode
  rw [← hop, ← hrsv]
  cases hv : opOfCode (wordOp v) with
  | none => rfl
  | some op =>
    have hcode : wordOp v = opCode op := (opCode_of_opOfCode hv).symm
    have hoperands : operandsOf op v = operandsOf op w :=
      operandsOf_congr (by rintro rfl; exact hbit hcode) (by rintro rfl; exact hwords hcode)
    simp only [hoperands]

/-- Settles O10: a row's match value is its OP with every other field zero, and its mask covers OP and RSV. -/
theorem opcodeTableRowsSelectTheCommands : Obligations.OpcodeTableRowsSelectTheCommands := by
  intro w
  refine ⟨(matchesRow_iff .transmitBit w).trans ?_, (matchesRow_iff .program w).trans ?_,
    matchesRow_iff_decode (i := .powerDown) rfl, matchesRow_iff_decode (i := .reset) rfl,
    matchesRow_iff_decode (i := .init) rfl⟩
  · simp [decode_eq_command_iff, Instr.op, operandsOf]
  · simp [decode_eq_command_iff, Instr.op, operandsOf]

end

/-! SUPPORT. FRAME40 as a number and bit by bit (rules R78, R79). -/

namespace Sys2Proof.Machine

/-- FRAME40 is TW * 2^8 + PW: the control bits between them are 0 (rule R78). -/
theorem toNat_frame40 (tw : TuningWord) (pw : PhaseWord) : (frame40 tw pw).toNat = tw.toNat * 2 ^ 8 + pw.toNat := by
  have hhi : (tw ++ 0#3 : BitVec 35).toNat = tw.toNat * 2 ^ 3 := by
    rw [BitVec.toNat_append, BitVec.toNat_zero, Nat.or_zero, Nat.shiftLeft_eq]
  rw [frame40, BitVec.toNat_append, hhi, ← Nat.shiftLeft_add_eq_or_of_lt pw.isLt, Nat.shiftLeft_eq]
  omega

/-- The top bit first, by position. -/
theorem getElem?_bitsMsbFirst {n : Nat} (v : BitVec n) {k : Nat} (hk : k < n) :
    (bitsMsbFirst v)[k]? = some (v.getLsbD (n - 1 - k)) := by
  simp [bitsMsbFirst, hk]

/-- Every bit of FRAME40 comes from the word or the control field the rule gives it (rule R78). -/
theorem getLsbD_frame40 (tw : TuningWord) (pw : PhaseWord) (k : Nat) :
    (frame40 tw pw).getLsbD k =
      if k < 5 then pw.getLsbD k else if k < 8 then false else tw.getLsbD (k - 8) := by
  have hcontrol : k - 5 < 3 ↔ k < 8 := by omega
  rw [frame40, BitVec.getLsbD_append, BitVec.getLsbD_append]
  simp only [hcontrol, BitVec.getLsbD_zero, Nat.sub_sub]

end Sys2Proof.Machine

section
open Sys2Proof Sys2Proof.Machine

/-- Settles O20: position `k` on DATA is bit 39 - k of FRAME40. -/
theorem frame40GoesOutInTheTablesOrder : Obligations.Frame40GoesOutInTheTablesOrder := by
  intro tw pw
  refine ⟨toNat_frame40 tw pw, evProgram_eq_frame tw pw, fun k hk => ?_⟩
  rw [getElem?_bitsMsbFirst _ hk, getLsbD_frame40]
  congr 1
  by_cases h32 : k < 32
  · rw [if_pos h32, if_neg (by omega), if_neg (by omega), show 40 - 1 - k - 8 = 31 - k by omega]
  · by_cases h35 : k < 35
    · rw [if_neg h32, if_pos h35, if_neg (by omega), if_pos (by omega)]
    · rw [if_neg h32, if_neg h35, if_pos (by omega)]

/-- Settles O21: the five bits of the Phase Word never reach the control bits, so both words can be read back from the
number. -/
theorem frame40IsInjective : Obligations.Frame40IsInjective := by
  intro tw tw' pw pw'
  have hpw := pw.isLt
  have hpw' := pw'.isLt
  rw [toNat_frame40]
  refine ⟨by omega, ⟨tw.toNat, tw.isLt, pw.toNat, hpw, rfl⟩, fun h => ?_⟩
  have hnum : tw.toNat * 2 ^ 8 + pw.toNat = tw'.toNat * 2 ^ 8 + pw'.toNat := by
    rw [← toNat_frame40, ← toNat_frame40, h]
  exact ⟨BitVec.eq_of_toNat_eq (by omega), BitVec.eq_of_toNat_eq (by omega)⟩

end

/-! SUPPORT. What each command adds to the symbol stream and to the segments (rules R60, R61, R82, R147). -/

namespace Sys2Proof.Machine

/-! The symbols of bits and of each event list. -/

/-- The symbols of bits that are clocked out. -/
def bitSymbols (bs : List Bool) : List Symbol := (bs.map Level.ofBool).map .bit

/-- Each bit gives one symbol, whatever DATA held before; a strobe after the bits gives STB (rule R60). -/
theorem symFrom_evBits_strobe (d : Level) (bs : List Bool) :
    symFrom d (evBits bs ++ evPulse .strobe) = bitSymbols bs ++ [.stb] := by
  induction bs generalizing d with
  | nil => rfl
  | cons b bs ih => exact congrArg (.bit (Level.ofBool b) :: ·) (ih (Level.ofBool b))

theorem symFrom_evProgram (d : Level) (tw : TuningWord) (pw : PhaseWord) :
    symFrom d (evProgram tw pw) = bitSymbols (bitsMsbFirst (frame40 tw pw)) ++ [.stb] := by
  rw [evProgram_eq_frame, symFrom_evBits_strobe]

theorem symFrom_evPowerDown (d : Level) :
    symFrom d evPowerDown = .stb :: (bitSymbols (bitsLsbFirst 0b00000100#8) ++ [.stb]) :=
  congrArg (Symbol.stb :: ·) (symFrom_evBits_strobe d (bitsLsbFirst 0b00000100#8))

/-- RESET's CLOCK pulse clocks out the level DATA then holds (rule R108). -/
theorem symFrom_evReset (d : Level) :
    symFrom d evReset = .bit d :: .rst :: .stb :: (bitSymbols (List.replicate 40 false) ++ [.stb]) :=
  congrArg ([Symbol.bit d, .rst, .stb] ++ ·) (symFrom_evProgram d 0 0)

/-! The segments they make. -/

/-- Bits that are clocked out join what is pending. -/
theorem segmentsFrom_bits (acc : Segment) (ls : List Level) (ss : List Symbol) :
    segmentsFrom acc (ls.map .bit ++ ss) = segmentsFrom ⟨acc.bits ++ ls, acc.sawReset⟩ ss := by
  induction ls generalizing acc with
  | nil => simp
  | cons l ls ih => simp [segmentsFrom, ih]

/-- Bits and a strobe commit what was pending and the bits as one segment. -/
theorem segmentsFrom_bitSymbols_stb (acc : Segment) (bs : List Bool) :
    segmentsFrom acc (bitSymbols bs ++ [.stb]) =
      ([⟨acc.bits ++ bs.map Level.ofBool, acc.sawReset⟩], Segment.empty) :=
  segmentsFrom_bits acc _ _

/-- The segment view after a command: its symbols, from DATA's level on, go on from what was pending. -/
theorem segments_exec {i : Instr} {s t : State} {segs new : List Segment} {acc acc' : Segment}
    (hs : segments s.trace = (segs, acc)) (ht : exec i s = .next t)
    (hnew : segmentsFrom acc (symFrom (writeLines Lines.unwritten s.trace).data (commandEvents i)) = (new, acc')) :
    segments t.trace = (segs ++ new, acc') := by
  rw [segments] at hs
  rw [segments, exec_trace ht, sym_append, segmentsFrom_append, hs, hnew]

end Sys2Proof.Machine

section
open Sys2Proof Sys2Proof.Machine

/-- Settles O31: each command's symbols, after what was pending. -/
theorem commandsCommitTheseSegments : Obligations.CommandsCommitTheseSegments := by
  intro s segs bits saw hs
  refine ⟨fun fRaw pRaw t ht => ?_, fun t ht => ?_, fun b t ht => ?_, fun t ht => ?_, fun t hl ht => ?_⟩
  · refine segments_exec hs ht ((congrArg _ (symFrom_evProgram _ _ _)).trans ?_)
    exact segmentsFrom_bitSymbols_stb _ _
  · refine segments_exec hs ht ((congrArg _ (symFrom_evPowerDown _)).trans ?_)
    rfl
  · exact (segments_exec hs ht rfl).trans (by rw [List.append_nil]; rfl)
  · exact (segments_exec hs ht rfl).trans (by rw [List.append_nil])
  · refine segments_exec hs ht ((congrArg _ (symFrom_evReset _)).trans ?_)
    rw [← hl]
    rfl

end

/-! SUPPORT. The assembler reads a decimal exactly or not at all (rule R83). -/

namespace Sys2Proof.Machine

/-- The digits of a decimal with their sign: its value is this over 10^places. -/
def Decimal.numerator (d : Decimal) : Int := if d.negative then -(d.digits : Int) else d.digits

/-- `scaledDecimal` answers the whole number of units the decimal is, and nothing where it is none. -/
theorem scaledDecimal_eq_some_iff (bits : Nat) (d : Decimal) (n : Int) :
    scaledDecimal bits d = some n ↔ n * 10 ^ d.places = d.numerator * 2 ^ bits := by
  obtain ⟨negative, digits, places⟩ := d
  have hten : (10 : Int) ^ places ≠ 0 := by positivity
  simp only [scaledDecimal, Decimal.numerator]
  by_cases hdvd : digits * 2 ^ bits % 10 ^ places = 0
  · obtain ⟨k, hk⟩ := Nat.dvd_of_mod_eq_zero hdvd
    have hkInt : (digits : Int) * 2 ^ bits = 10 ^ places * k := by exact_mod_cast hk
    rw [if_pos hdvd, hk, Nat.mul_div_cancel_left k (by positivity), Option.some_inj, eq_comm,
      ← mul_left_inj' (a := n) hten]
    cases negative <;> simp [hkInt, mul_comm]
  · rw [if_neg hdvd]
    refine iff_of_false nofun fun h => hdvd (Nat.mod_eq_zero_of_dvd ?_)
    have hdvdInt : (10 : Int) ^ places ∣ digits * 2 ^ bits := by
      cases negative
      · exact ⟨n, by simpa [mul_comm] using h.symm⟩
      · exact ⟨-n, by simpa [mul_comm, neg_eq_iff_eq_neg] using h.symm⟩
    exact_mod_cast hdvdInt

theorem assembleProgram_in_range {fRaw pRaw : Int} (hf : FreqInRange fRaw) (hp : PhaseInRange pRaw) :
    assembleProgram (some fRaw) (some pRaw) = .words [encode (.program fRaw pRaw)] :=
  if_pos ((wellFormed_program_iff fRaw pRaw).mpr ⟨hf, hp⟩)

theorem assembleProgram_refused {f p : Option Int}
    (h : ∀ fRaw pRaw, f = some fRaw → p = some pRaw → FreqInRange fRaw → ¬PhaseInRange pRaw) :
    assembleProgram f p = .refused .notRepresentable := by
  unfold assembleProgram
  split
  · next fRaw pRaw =>
    refine if_neg fun hwf => ?_
    obtain ⟨hf, hp⟩ := (wellFormed_program_iff fRaw pRaw).mp hwf
    exact h fRaw pRaw rfl rfl hf hp
  · rfl

end Sys2Proof.Machine

section
open Sys2Proof Sys2Proof.Machine

/-- Settles O54: each literal is read as the whole number of units it is, and refused where it is none. -/
theorem assemblerIsExactOrRefuses : Obligations.AssemblerIsExactOrRefuses := by
  rintro f p _ _ rfl rfl
  constructor
  · intro fRaw pRaw hfreq hphase hf hp
    have hfreq : scaledDecimal 32 f = some fRaw := (scaledDecimal_eq_some_iff 32 f fRaw).mpr hfreq
    have hphase : scaledDecimal 16 p = some pRaw := (scaledDecimal_eq_some_iff 16 p pRaw).mpr hphase
    rw [assembleLine, hfreq, hphase, assembleProgram_in_range hf hp]
  · intro h
    rw [assembleLine]
    refine assembleProgram_refused fun fRaw pRaw hfreq hphase => h fRaw pRaw ?_ ?_
    · exact (scaledDecimal_eq_some_iff 32 f fRaw).mp hfreq
    · exact (scaledDecimal_eq_some_iff 16 p pRaw).mp hphase

end

/-! SUPPORT. The converter as arithmetic: the Tuning Word as a rounded ratio (rules R86 to R89), the Phase Word as a number
of steps (rules R91 to R94). -/

namespace Sys2Proof.Machine

/-- A word made from an integer is that integer mod 2^n, by the floor-mod for negative ones too (rule R11). -/
theorem toNat_ofInt_eq_emod (n : Nat) (i : Int) : ((BitVec.ofInt n i).toNat : Int) = i % 2 ^ n := by
  have hnonneg : 0 ≤ i % ((2 ^ n : Nat) : Int) := Int.emod_nonneg i (by positivity)
  rw [BitVec.toNat_ofInt, Int.toNat_of_nonneg hnonneg, Nat.cast_pow, Nat.cast_ofNat]

/-! The Tuning Word. -/

theorem toNat_tuningWord (R : Nat) (f : Int) : ((tuningWord R f).toNat : Int) = roundedTuning R f % 2 ^ 32 :=
  toNat_ofInt_eq_emod 32 (roundedTuning R f)

/-- The integer form of the rounding and the rational one agree (rule R86). -/
theorem floor_ratio_add_half {R : Nat} (hR : 1 ≤ R) (f : Int) : ⌊(f : ℚ) / R + 1 / 2⌋ = roundedTuning R f := by
  have hratio : (f : ℚ) / R + 1 / 2 = ((2 * f + R : Int) : ℚ) / (2 * R : Nat) := by
    push_cast
    field_simp
  rw [hratio, Rat.floor_intCast_div_natCast, roundedTuning, Nat.cast_mul, Nat.cast_ofNat]

/-- A tie in whole numbers: F_raw stands half a reference clock above k of them (rule R87). -/
theorem ratio_eq_add_half_iff {R : Nat} (hR : 1 ≤ R) (f k : Int) :
    (f : ℚ) / R = k + 1 / 2 ↔ 2 * (f - R * k) = R := by
  rw [← @Int.cast_inj ℚ]
  push_cast
  field_simp
  constructor <;> intro h <;> linarith

theorem roundedTuning_tie {R : Nat} (hR : 1 ≤ R) {f k : Int} (h : 2 * (f - R * k) = R) :
    roundedTuning R f = k + 1 := by
  have hnum : 2 * f + R = (k + 1) * (2 * R) := by linarith
  rw [roundedTuning, hnum, Int.mul_ediv_cancel _ (by omega)]

/-- Of all k only F_raw div R can make a tie, and its remainder is then half of R. -/
theorem exists_tie_iff {R : Nat} (hR : 1 ≤ R) (f : Int) :
    (∃ k : Int, 2 * (f - R * k) = R) ↔ R % 2 = 0 ∧ f % R = R / 2 := by
  constructor
  · rintro ⟨k, hk⟩
    obtain ⟨-, hmod⟩ := (Int.ediv_emod_unique (a := f) (b := R) (q := k) (r := f - R * k) (by omega)).mpr
      ⟨by ring, by omega, by omega⟩
    omega
  · rintro ⟨heven, hmod⟩
    have hdiv := Int.mul_ediv_add_emod f R
    exact ⟨f / R, by omega⟩

/-- Rule R89's range: below half the reference clock, and rounding up may reach 2^31 itself. -/
theorem roundedTuning_mem_range {R : Nat} (hR : 1 ≤ R) {f : Int} (h0 : 0 ≤ f) (hf : f < R * 2 ^ 31) :
    0 ≤ roundedTuning R f ∧ roundedTuning R f ≤ 2 ^ 31 :=
  ⟨Int.ediv_nonneg (by omega) (by omega), Int.le_of_lt_add_one (Int.ediv_lt_of_lt_mul (by omega) (by omega))⟩

theorem le_roundedTuning_iff {R : Nat} (hR : 1 ≤ R) (f n : Int) :
    n ≤ roundedTuning R f ↔ n * (2 * R) ≤ 2 * f + R :=
  Int.le_ediv_iff_mul_le (by omega)

theorem roundedTuning_add_mul {R : Nat} (hR : 1 ≤ R) (f n : Int) :
    roundedTuning R (f + n * R) = roundedTuning R f + n := by
  have hnum : 2 * (f + n * R) + R = 2 * f + R + n * (2 * R) := by ring
  rw [roundedTuning, hnum, Int.add_mul_ediv_right _ _ (by omega), roundedTuning]

/-! The Phase Word. -/

theorem normalizedPhase_mem_range (p : Int) : 0 ≤ normalizedPhase p ∧ normalizedPhase p < 23592960 :=
  ⟨Int.emod_nonneg p (by decide), Int.emod_lt_of_pos p (by decide)⟩

/-- A normalised phase holds fewer than 32 whole steps, so the reduction to five bits changes nothing (rule R92). -/
theorem toNat_phaseWord (p : Int) : ((phaseWord p).toNat : Int) = normalizedPhase p / 737280 := by
  obtain ⟨h0, h1⟩ := normalizedPhase_mem_range p
  rw [phaseWord, toNat_ofInt_eq_emod]
  omega

theorem normalizedPhase_add_turns (p k : Int) : normalizedPhase (p + 23592960 * k) = normalizedPhase p :=
  Int.add_mul_emod_self_left p 23592960 k

end Sys2Proof.Machine

section
open Sys2Proof Sys2Proof.Machine

/-- Settles O12: the integer form rounds as the rational one does. -/
theorem tuningWordIsTheRoundedRatio : Obligations.TuningWordIsTheRoundedRatio := by
  intro R f hR
  rw [toNat_tuningWord, floor_ratio_add_half hR]

/-- Settles O13: a tie in whole numbers divides without remainder, and its k is F_raw div R. -/
theorem tuningTiesGoUp : Obligations.TuningTiesGoUp := by
  intro R f hR
  simp only [ratio_eq_add_half_iff hR]
  refine ⟨fun k hk => ?_, exists_tie_iff hR f⟩
  rw [toNat_tuningWord, roundedTuning_tie hR hk]

/-- Settles O14: the rounded value is at most 2^31, so the mod leaves it alone, and it is 2^31 when it is no less. -/
theorem tuningWordInRangeIsExact : Obligations.TuningWordInRangeIsExact := by
  intro R f hR h0 hf
  obtain ⟨hlo, hhi⟩ := roundedTuning_mem_range hR h0 hf
  have hword : ((tuningWord R f).toNat : Int) = roundedTuning R f := by
    rw [toNat_tuningWord, Int.emod_eq_of_lt hlo (by omega)]
  have htop := le_roundedTuning_iff hR f (2 ^ 31)
  rw [floor_ratio_add_half hR]
  exact ⟨hlo, hhi, hword, by omega⟩

/-- Settles O15: k reference clocks add k times 2^32 to the rounded value, which the mod drops. -/
theorem tuningWordAliases : Obligations.TuningWordAliases := by
  intro R f k hR
  have hrounded : roundedTuning R (f + k * (R * 2 ^ 32)) = roundedTuning R f + k * 2 ^ 32 := by
    rw [← roundedTuning_add_mul hR]
    congr 1
    ring
  refine BitVec.eq_of_toNat_eq (Int.ofNat_inj.mp ?_)
  rw [toNat_tuningWord, hrounded, Int.add_mul_emod_self_right, toNat_tuningWord]

/-- Settles O16: a turn is 32 steps, so the steps of the normalised phase are those of the phase mod 32. -/
theorem phaseWordIsTheFloorOfSteps : Obligations.PhaseWordIsTheFloorOfSteps := by
  intro p
  rw [toNat_phaseWord, normalizedPhase]
  omega

/-- Settles O17: the k-th band holds the phases of k whole steps. -/
theorem phaseWordBands : Obligations.PhaseWordBands := by
  intro p k _
  have hsteps := toNat_phaseWord p
  rw [normalizedPhase] at hsteps
  omega

/-- Settles O18: whole turns are lost in the normalisation, and five bits hold at most 31. -/
theorem phaseWordIsPeriodic : Obligations.PhaseWordIsPeriodic := by
  intro p k
  have hbits := (phaseWord p).isLt
  refine ⟨?_, by omega⟩
  rw [phaseWord, normalizedPhase_add_turns, phaseWord]

/-- Settles O19: the converter computes each row of rule R97's table. -/
theorem conversionCornerCases : Obligations.ConversionCornerCases := by
  unfold Obligations.ConversionCornerCases
  decide

end

/-! SUPPORT. What a completed command leaves, field by field, and the wire form of the serializer's lists (rules R60,
R65, R101 to R106). -/

namespace Sys2Proof

/-- A word of an operation's row decodes to it, with the operands of the word's fields (rules R65, R67). -/
theorem decode_of_matchesRow (op : Op) {w : CmdWord} (h : w &&& 0xFFFFFFEF = packWord 0 0 0 false (opCode op)) :
    decode w = .command (operandsOf op w) := by
  obtain ⟨hrsv, hop⟩ := (matchesRow_iff op w).mp h
  exact decode_of_fields hrsv hop

end Sys2Proof

namespace Sys2Proof.Machine

/-! The lists of the commands. -/

theorem commandEvents_program (fRaw pRaw : Int) :
    commandEvents (.program fRaw pRaw) = evProgram (tuningWord Config.refClkHz fRaw) (phaseWord pRaw) := rfl

theorem commandEvents_powerDown : commandEvents .powerDown = evPowerDown := rfl

/-! A completed command. -/

section Completed
variable {i : Instr} {s t : State}

theorem exec_lines (h : exec i s = .next t) : t.lines = writeLines s.lines (commandEvents i) := by
  obtain rfl := (exec_eq_next_iff i s t).mp h
  rw [finish_lines, remainingEvents_acceptInstr, acceptInstr_lines]

theorem exec_trace_length (h : exec i s = .next t) : t.trace.length = s.trace.length + (commandEvents i).length := by
  rw [exec_trace h, List.length_append]

/-- The symbols a command adds are those of its own list, from DATA's level on (rule R60). -/
theorem exec_sym (h : exec i s = .next t) :
    sym t.trace = sym s.trace ++ symFrom (writeLines Lines.unwritten s.trace).data (commandEvents i) := by
  rw [exec_trace h, sym_append]

/-- SEQ_ERR and LIFE move at acceptance by the rules R114 and R115; CMD_ERR and the host's actions stay, and the block
is ready again. -/
theorem exec_frame (h : exec i s = .next t) :
    t.seqErr = (s.seqErr || violates i.op s.life) ∧ t.life = nextLife i.op s.life ∧ t.cmdErr = s.cmdErr ∧
      t.busy = false ∧ t.inputs = s.inputs := by
  obtain rfl := (exec_eq_next_iff i s t).mp h
  simp

end Completed

/-! The lines after bits, and after each list of the serializer. -/

/-- Bits leave CLOCK low and DATA at the last of them (rule R100). -/
theorem writeLines_evBits {bs : List Bool} {b : Bool} (h : bs.getLast? = some b) (ls : Lines) :
    writeLines ls (evBits bs) = { ls with clock := .low, data := Level.ofBool b } := by
  obtain ⟨as, rfl⟩ := List.getLast?_eq_some_iff.mp h
  clear h
  induction as generalizing ls with
  | nil => rfl
  | cons a as ih => exact ih (writeLines ls (evBit a))

theorem getLast?_bitsMsbFirst {n : Nat} (v : BitVec (n + 1)) : (bitsMsbFirst v).getLast? = some (v.getLsbD 0) := by
  rw [List.getLast?_eq_getElem?, length_bitsMsbFirst, Nat.add_sub_cancel,
    getElem?_bitsMsbFirst v n.lt_succ_self, Nat.add_sub_cancel, Nat.sub_self]

/-- PROGRAM ends with DATA at the Phase Word's bit 0, the last bit of FRAME40 (rule R104). -/
theorem writeLines_evProgram (ls : Lines) (tw : TuningWord) (pw : PhaseWord) :
    writeLines ls (evProgram tw pw) =
      { ls with clock := .low, data := Level.ofBool (pw.getLsbD 0), strobe := .low } := by
  have hlast : (bitsMsbFirst (frame40 tw pw)).getLast? = some (pw.getLsbD 0) := by
    rw [getLast?_bitsMsbFirst, getLsbD_frame40, if_pos (by decide)]
  rw [evProgram_eq_frame, writeLines_append, writeLines_evBits hlast]
  rfl

theorem writeLines_evPowerDown (ls : Lines) :
    writeLines ls evPowerDown = { ls with clock := .low, data := .low, strobe := .low } := rfl

/-! The frame as numbers. -/

/-- A frame goes out as the bits of its number, the top bit first (rule R73). -/
theorem evBits_bitsMsbFirst {n : Nat} (v : BitVec n) :
    evBits (bitsMsbFirst v) = (List.range n).flatMap fun k => evBit (v.toNat.testBit (n - 1 - k)) :=
  List.flatMap_map ..

theorem toNat_tuningWord_eq_toNat (R : Nat) (f : Int) :
    (tuningWord R f).toNat = ((2 * f + R) / (2 * R) % 2 ^ 32).toNat := by
  rw [← Int.toNat_natCast (tuningWord R f).toNat, toNat_tuningWord, roundedTuning]

theorem toNat_phaseWord_eq_toNat (p : Int) : (phaseWord p).toNat = (p / 737280 % 32).toNat := by
  rw [← Int.toNat_natCast (phaseWord p).toNat, phaseWordIsTheFloorOfSteps]

/-! The levels of the bits. -/

theorem ofBool_getLsbD_zero {n : Nat} (v : BitVec n) :
    Level.ofBool (v.getLsbD 0) = if v.toNat % 2 = 1 then .high else .low := by
  rw [← BitVec.testBit_toNat, Nat.testBit_zero]
  simp [Level.ofBool]

theorem bitSymbols_eq_map (bs : List Bool) : bitSymbols bs = bs.map fun b => .bit (if b then .high else .low) :=
  List.map_map ..

end Sys2Proof.Machine

section
open Sys2Proof Sys2Proof.Machine

/-- Settles O23: the list is FRAME40's forty bits and a strobe, and the frame's number is TW * 256 + PW. -/
theorem programRuns : Obligations.ProgramRuns := by
  refine ⟨fun w => decode_of_matchesRow .program, fun fRaw pRaw s => ?_⟩
  intro R tw pw
  have htw : (tuningWord Config.refClkHz fRaw).toNat = tw := toNat_tuningWord_eq_toNat _ _
  have hpw : (phaseWord pRaw).toNat = pw := toNat_phaseWord_eq_toNat _
  have hrun := exec_finish_accept (.program fRaw pRaw) s
  refine ⟨_, hrun, ?_, ?_, exec_frame hrun⟩
  · rw [exec_trace hrun, commandEvents_program, evProgram_eq_frame, evBits_bitsMsbFirst, toNat_frame40, htw, hpw,
      List.append_assoc]
    rfl
  · rw [exec_lines hrun, commandEvents_program, writeLines_evProgram, ofBool_getLsbD_zero, hpw]

/-- Settles O28: each bit of FRAME40 gives its symbol and the strobe gives STB. -/
theorem programSymbols : Obligations.ProgramSymbols := by
  intro fRaw pRaw s t ht
  have hsym := exec_sym ht
  rw [commandEvents_program, symFrom_evProgram, bitSymbols_eq_map] at hsym
  refine ⟨?_, by rw [hsym, List.append_assoc], ?_⟩
  · rw [exec_trace_length ht, commandEvents_program, length_evProgram]
  · rw [hsym, List.drop_left]
    simp

/-- Settles O22: the list is one bit. -/
theorem transmitBitRuns : Obligations.TransmitBitRuns := by
  refine ⟨fun w => decode_of_matchesRow .transmitBit, fun b s => ?_⟩
  have hrun := exec_finish_accept (.transmitBit b) s
  exact ⟨_, hrun, exec_trace hrun, exec_sym hrun, exec_lines hrun, exec_frame hrun⟩

/-- Settles O24: the list is the pattern's eight bits between two strobes. -/
theorem powerDownRuns : Obligations.PowerDownRuns := by
  refine ⟨fun w => decode_of_matchesRow .powerDown, fun s => ?_⟩
  have hrun := exec_finish_accept .powerDown s
  refine ⟨_, hrun, ?_, (exec_lines hrun).trans (writeLines_evPowerDown _), exec_frame hrun⟩
  rw [exec_trace hrun, List.append_assoc, List.append_assoc]
  rfl

/-- Settles O29: each strobe gives STB and each bit of the pattern its symbol. -/
theorem powerDownSymbols : Obligations.PowerDownSymbols := by
  intro s t ht
  refine ⟨?_, ?_, (exec_lines ht).trans (writeLines_evPowerDown _)⟩
  · rw [exec_trace_length ht, commandEvents_powerDown, length_evPowerDown]
  · rw [exec_sym ht, commandEvents_powerDown, symFrom_evPowerDown]
    rfl

end

/-! SUPPORT. RESET and INIT as lists of events, PROGRAM 0, 0 as RESET's tail (rules R96, R108 to R112), and the flags
from the acceptance of a command to its end (rules R114, R115). -/

namespace Sys2Proof.Machine

/-! PROGRAM 0, 0, whatever the reference clock. -/

/-- F_raw = 0 gives the Tuning Word 0 at every reference clock: half of it over itself rounds down (rule R96). -/
theorem tuningWord_zero {R : Nat} (hR : 1 ≤ R) : tuningWord R 0 = 0 := by
  have hrounded : roundedTuning R 0 = 0 := Int.ediv_eq_zero_of_lt (by omega) (by omega)
  rw [tuningWord, hrounded]
  rfl

theorem commandEvents_program_zero : commandEvents (.program 0 0) = evProgram 0 0 := by
  rw [commandEvents_program, tuningWord_zero refClkHz_pos]
  rfl

/-- The frame of PROGRAM 0, 0 is forty zero bits and a strobe (rule R108). -/
theorem evProgram_zero : evProgram 0 0 = (List.replicate 40 (evBit false)).flatten ++ evPulse .strobe := by
  have hbits : bitsMsbFirst (frame40 0 0) = List.replicate 40 false := rfl
  rw [evProgram_eq_frame, hbits, evBits, List.flatMap_replicate]

/-! RESET and INIT. -/

theorem commandEvents_reset : commandEvents .reset = evReset := rfl

/-- The prologue's pulses end low, and the last bit of the tail is a zero (rule R108). -/
theorem writeLines_evReset (ls : Lines) : writeLines ls evReset = ⟨.low, .low, .low, .low⟩ := by
  rw [evReset, writeLines_append, writeLines_evProgram]
  rfl

theorem nextLife_init (life : Life) : nextLife .init life = if life = .uninit then .resetReady else life := by
  cases life <;> rfl

/-! The flags of a command, from its acceptance to its end. -/

/-- LIFE and SEQ_ERR take their values at acceptance and still have them when the command is complete. -/
theorem life_seqErr_of_accepted {i : Instr} {s t : State} (h : exec i s = .next t ∨ t = acceptInstr i s) :
    t.life = nextLife i.op s.life ∧ t.seqErr = (s.seqErr || violates i.op s.life) := by
  obtain h | rfl := h
  · obtain ⟨hseq, hlife, -⟩ := exec_frame h
    exact ⟨hlife, hseq⟩
  · exact ⟨acceptInstr_life i s, acceptInstr_seqErr i s⟩

/-- The violations of rule R115. -/
theorem violates_eq_true_iff (i : Instr) (life : Life) :
    violates i.op life = true ↔
      ((i = .powerDown ∨ (∃ b, i = .transmitBit b) ∨ ∃ f p, i = .program f p) ∧ life ≠ .programmed) ∨
        (i = .reset ∧ life = .uninit) := by
  cases i <;> simp [violates, Instr.op]

/-! An illegal word at a ready block. -/

theorem portEvent_illegal {s : State} {w : CmdWord} {why : IllegalCause} (hb : s.busy = false)
    (hw : s.inputs.head? = some (.offer w)) (hd : decode w = .illegal why) : portEvent s = .illegal why := by
  rw [portEvent, (rstPin_eq_false_iff s).mpr (by simp [hw]), hb, (offeredWord_eq_some_iff s w).mpr hw]
  simp [hd]

/-- The step consumes it and sets CMD_ERR (rules R43, R127). -/
theorem step_illegal {s : State} {w : CmdWord} {why : IllegalCause} (hb : s.busy = false)
    (hw : s.inputs.head? = some (.offer w)) (hd : decode w = .illegal why) :
    step s = .next (illegalCommand (consume s)) := by
  rw [step, portEvent_illegal hb hw hd]

end Sys2Proof.Machine

section
open Sys2Proof Sys2Proof.Machine

/-- Settles O30: the prologue's CLOCK pulse clocks out DATA's level, and the tail's frame is forty zeros. -/
theorem resetSymbols : Obligations.ResetSymbols := by
  intro s t hl ht
  have hsym := exec_sym ht
  rw [← hl, commandEvents_reset, symFrom_evReset] at hsym
  refine ⟨?_, ?_, (exec_lines ht).trans (writeLines_evReset _)⟩
  · rw [exec_trace_length ht, commandEvents_reset, length_evReset]
  · rw [hsym, List.append_assoc, List.append_assoc]
    rfl

/-- Settles O25: RESET's list is the three pulses and PROGRAM's list for two zero words. -/
theorem resetRuns : Obligations.ResetRuns := by
  refine ⟨fun w => decode_of_matchesRow .reset, fun s => ?_⟩
  have hrun := exec_finish_accept .reset s
  have hprogram := exec_finish_accept (.program 0 0) s
  refine ⟨_, _, evProgram 0 0, hrun, hprogram, ?_, evProgram_zero, ?_, (exec_lines hrun).trans (writeLines_evReset _),
    exec_frame hrun⟩
  · rw [exec_trace hprogram, commandEvents_program_zero]
  · rw [exec_trace hrun, commandEvents_reset, evReset, ← List.append_assoc]
    rfl

/-- Settles O26: INIT's list is its four writes, none of which asserts a line. -/
theorem initRuns : Obligations.InitRuns := by
  refine ⟨fun w => decode_of_matchesRow .init, fun s => ?_⟩
  have hrun := exec_finish_accept .init s
  obtain ⟨hseq, hlife, hcmd, hbusy, hinputs⟩ := exec_frame hrun
  exact ⟨_, hrun, exec_trace hrun, (exec_sym hrun).trans (List.append_nil _), exec_lines hrun,
    hlife.trans (nextLife_init s.life), hseq.trans (Bool.or_false _), hcmd, hbusy, hinputs⟩

/-- Settles O32: acceptance moves LIFE by the table, and an illegal word moves CMD_ERR alone. -/
theorem lifeFollowsTheTable : Obligations.LifeFollowsTheTable := by
  refine ⟨fun i s t h => ?_, fun s t w why hb hw hd h => ?_⟩
  · obtain ⟨hlife, -⟩ := life_seqErr_of_accepted h
    rw [hlife]
    cases i <;> cases s.life <;> rfl
  · rw [step_illegal hb hw hd] at h
    cases h
    rfl

/-- Settles O33: acceptance adds the command's violation to SEQ_ERR. -/
theorem seqErrFollowsTheRule : Obligations.SeqErrFollowsTheRule := by
  intro i s t h
  obtain ⟨-, hseq⟩ := life_seqErr_of_accepted h
  rw [hseq, Bool.or_eq_true, violates_eq_true_iff]

end

/-! SUPPORT. An iteration of each sweep, an equation per variant (rules R120 to R123), and when it has a command to issue
(rule R125). -/

namespace Sys2Proof.Machine

section SweepIteration
variable {s : SweepState}

/-- sweep_up adds its step where the sum does not pass max, and starts again at min otherwise. -/
theorem sweepNext_up (hv : s.variant = .up) :
    sweepNext s = { s with cur := if s.cur + s.step ≤ s.max then s.cur + s.step else s.min } := by
  have hnext : sweepNext s = sweepUpNext s := by rw [sweepNext, hv]
  rw [hnext, sweepUpNext]
  by_cases hle : s.cur + s.step ≤ s.max
  · rw [if_neg (not_lt.mpr hle), if_pos hle]
  · rw [if_pos (not_le.mp hle), if_neg hle]

/-- sweep_down subtracts its step where the difference does not pass min, and starts again at max otherwise. -/
theorem sweepNext_down (hv : s.variant = .down) :
    sweepNext s = { s with cur := if s.min ≤ s.cur - s.step then s.cur - s.step else s.max } := by
  have hnext : sweepNext s = sweepDownNext s := by rw [sweepNext, hv]
  rw [hnext, sweepDownNext]
  by_cases hle : s.min ≤ s.cur - s.step
  · rw [if_neg (not_lt.mpr hle), if_pos hle]
  · rw [if_pos (not_le.mp hle), if_neg hle]

/-- The loop adds its increment and turns where that passed a bound. -/
theorem sweepNext_loop (hv : s.variant = .loop) :
    sweepNext s = { s with
      cur := s.cur + s.inc
      inc := if s.max < s.cur + s.inc ∨ s.cur + s.inc < s.min then -s.inc else s.inc } := by
  have hnext : sweepNext s = sweepLoopNext s := by rw [sweepNext, hv]
  rw [hnext, sweepLoopNext]
  by_cases hpast : s.max < s.cur + s.inc ∨ s.cur + s.inc < s.min
  · rw [if_pos hpast, if_pos hpast]
  · rw [if_neg hpast, if_neg hpast]

theorem sweepStep_in_range (h : FreqInRange s.cur) :
    sweepStep s = some (encode (.program s.cur 0), sweepNext s) := by
  rw [sweepStep, sweepCommand, if_pos h]

theorem sweepStep_refused (h : ¬FreqInRange s.cur) : sweepStep s = none := by
  rw [sweepStep, sweepCommand, if_neg h]

end SweepIteration

end Sys2Proof.Machine

section
open Sys2Proof Sys2Proof.Machine

/-- Settles O52: a value past a bound was reached by an add towards that bound, so turning points it back, and a value
already past a bound adds back towards the range. -/
theorem loopSweepOvershootsAtMostOneStep : Obligations.LoopSweepOvershootsAtMostOneStep := by
  intro s d hv hd hminmax hinc hlo hhi habove hbelow
  rw [sweepNext_loop hv]
  refine ⟨rfl, ?_⟩
  dsimp only
  by_cases hpast : s.max < s.cur + s.inc ∨ s.cur + s.inc < s.min
  · rw [if_pos hpast]
    omega
  · rw [if_neg hpast]
    omega

/-- Settles O51: the next value is the sum or difference where the bound admits it, and the far bound otherwise. -/
theorem plainSweepsStayInRange : Obligations.PlainSweepsStayInRange := by
  rintro s (hv | hv) hstep hminmax hlo hhi
  · rw [sweepNext_up hv, hv]
    by_cases hle : s.cur + s.step ≤ s.max
    · rw [if_pos hle]
      exact ⟨le_add_of_le_of_nonneg hlo hstep, hle, rfl⟩
    · rw [if_neg hle]
      exact ⟨le_rfl, hminmax, rfl⟩
  · rw [sweepNext_down hv, hv]
    by_cases hle : s.min ≤ s.cur - s.step
    · rw [if_pos hle]
      exact ⟨hle, (sub_le_self _ hstep).trans hhi, rfl⟩
    · rw [if_neg hle]
      exact ⟨hminmax, le_rfl, rfl⟩

/-- Settles O53: the values with a command are those of the FREQ field, whose words decode to what they encode. -/
theorem sweepStepIssuesOneProgram : Obligations.SweepStepIssuesOneProgram := by
  refine fun s => ⟨fun hin => ?_, fun hout => sweepStep_refused fun hf => ?_⟩
  · have hf : FreqInRange s.cur := hin
    exact ⟨_, sweepStep_in_range hf, decode_encode ((wellFormed_program_iff _ _).mpr ⟨hf, by decide⟩)⟩
  · omega

end

/-! SUPPORT. The illegal words as numbers (rule R71), and the tick of a ready block that is offered one (rule R127). -/

namespace Sys2Proof

theorem decode_illegal_of_numbers {w : CmdWord}
    (h : w.toNat % 16 = 0 ∨ 6 ≤ w.toNat % 16 ∨ w.toNat / 2 ^ 5 % 2 ^ 27 ≠ 0) : ∃ why, decode w = .illegal why := by
  refine decode_illegal ?_
  rw [ne_eq, wordRsv_eq_zero_iff, Machine.opOfCode_eq_none_iff, ← BitVec.toNat_inj, toNat_wordOp]
  exact (or_assoc.mpr h).symm

end Sys2Proof

namespace Sys2Proof.Machine

/-- The tick consumes the word and sets CMD_ERR, as the step does (rules R127, R151). -/
theorem tick_illegal {s : State} {w : CmdWord} {why : IllegalCause} (hb : s.busy = false)
    (hw : s.inputs.head? = some (.offer w)) (hd : decode w = .illegal why) :
    tick s = .next (illegalCommand (consume s)) := by
  rw [tick, tickWith, portEvent_illegal hb hw hd]

end Sys2Proof.Machine

section
open Sys2Proof Sys2Proof.Machine

/-- Settles O6: the word decodes as illegal, so the port's illegal case is the step's and the tick's, and consuming the
offer leaves the rest of the host's list. -/
theorem illegalWordOnlySetsCmdErr : Obligations.IllegalWordOnlySetsCmdErr := by
  intro s w rest hb hin hw
  have hport : s.inputs.head? = some (.offer w) := by rw [hin, List.head?_cons]
  obtain ⟨why, hd⟩ := decode_illegal_of_numbers hw
  rw [step_illegal hb hport hd, tick_illegal hb hport hd, consume_of_cons hin]
  exact ⟨rfl, rfl⟩

end

/-! SUPPORT. The port with RST = 1 (rule R142), the step of an offered word (rules R43, R155), and a run of words with
no sequencing violation (rules R114, R115, R144). -/

namespace Sys2Proof.Machine

/-- With RST = 1 the step and the tick are block reset, whatever the block is doing (rule R142). -/
theorem step_tick_blockReset {s : State} (hr : s.inputs.head? = some .blockReset) :
    step s = .next (blockReset (consume s)) ∧ tick s = .next (blockReset (consume s)) := by
  have hport : portEvent s = .reset := if_pos ((rstPin_eq_true_iff s).mpr hr)
  rw [step, tick, tickWith, hport]
  exact ⟨rfl, rfl⟩

/-- A ready block offered a legal word runs its command, the offer consumed (rules R43, R155). -/
theorem step_eq_exec {s : State} {w : CmdWord} {i : Instr} (hb : s.busy = false)
    (hw : s.inputs.head? = some (.offer w)) (hd : decode w = .command i) : step s = exec i (consume s) :=
  (step_command hb hw hd).trans (exec_finish_accept i _).symm

theorem decode_of_decodeTableWord {w : Nat} {i : Instr} (h : decodeTableWord 128 w = some i) :
    decode (BitVec.ofNat 128 (w % 2 ^ 128)) = .command i := by
  rw [decodeTableWord, if_pos le_rfl] at h
  split at h
  · next hd => rw [hd, Option.some.inj h]
  · cases h

/-- Consuming the word `withFetchWord` offers gives the ready block back. -/
theorem consume_withFetchWord {s : State} (nbits w : Nat) (hb : s.busy = false) :
    consume (s.withFetchWord nbits w) = s :=
  calc consume (s.withFetchWord nbits w)
    _ = { s with busy := false } := rfl
    _ = s := by rw [← hb]

/-- The step of a well-formed command's own word: the flags move by rules R114 and R115, and the block is ready for the
rest of the host's actions. -/
theorem step_encode {s : State} {i : Instr} {rest : List HostInput} (hi : i.wellFormed = true) (hb : s.busy = false)
    (hin : s.inputs = .offer (encode i) :: rest) :
    ∃ t, step s = .next t ∧ t.seqErr = (s.seqErr || violates i.op s.life) ∧ t.life = nextLife i.op s.life ∧
      t.cmdErr = s.cmdErr ∧ t.busy = false ∧ t.inputs = rest := by
  have hrun := exec_finish_accept i (consume s)
  obtain ⟨hseq, hlife, hcmd, hbusy, hinputs⟩ := exec_frame hrun
  refine ⟨_, step_command hb (by rw [hin, List.head?_cons]) (decode_encode hi), hseq, hlife, hcmd, hbusy, ?_⟩
  rw [hinputs, consume_inputs, hin, List.tail_cons]

theorem nextLife_programmed (op : Op) : nextLife op .programmed = .programmed := by cases op <;> rfl

theorem violates_programmed (op : Op) : violates op .programmed = false := by cases op <;> rfl

/-- In PROGRAMMED every command is in sequence and leaves LIFE there (rules R114, R115). -/
theorem runSteps_programmed {is : List Instr} {s : State} (hwf : ∀ i ∈ is, i.wellFormed = true)
    (hb : s.busy = false) (hl : s.life = .programmed) (hin : s.inputs = is.map fun i => .offer (encode i)) :
    ∃ t, runSteps is.length s = .next t ∧ t.seqErr = s.seqErr ∧ t.life = .programmed ∧ t.cmdErr = s.cmdErr ∧
      t.busy = false ∧ t.inputs = [] := by
  induction is generalizing s with
  | nil => exact ⟨s, rfl, rfl, hl, rfl, hb, hin⟩
  | cons i is ih =>
    obtain ⟨hi, his⟩ := List.forall_mem_cons.mp hwf
    obtain ⟨u, hu, hseq, hlife, hcmd, hbusy, hinputs⟩ := step_encode hi hb hin
    rw [hl, nextLife_programmed] at hlife
    rw [hl, violates_programmed, Bool.or_false] at hseq
    obtain ⟨t, ht, htseq, htlife, htcmd, hend⟩ := ih his hbusy hlife hinputs
    exact ⟨t, (runSteps_succ _ hu).trans ht, htseq.trans hseq, htlife, htcmd.trans hcmd, hend⟩

end Sys2Proof.Machine

section
open Sys2Proof Sys2Proof.Machine

/-- Settles O2: the step and the tick answer the reset state with the host's further actions. -/
theorem blockResetAbandonsEverything : Obligations.BlockResetAbandonsEverything := by
  intro s rest hin
  obtain ⟨hstep, htick⟩ := step_tick_blockReset (s := s) (by rw [hin, List.head?_cons])
  refine ⟨_, hstep, htick, rfl, rfl, rfl, rfl, rfl, rfl, rfl, ?_⟩
  rw [blockReset_inputs, consume_inputs, hin, List.tail_cons]

/-- Settles O35: the port's command case is the command the word decodes to, and `withFetchWord` puts the word at the
port of the same block. -/
theorem stepRunsTheDecodedInstruction : Obligations.StepRunsTheDecodedInstruction := by
  refine ⟨fun s w rest i hb hin hd => ?_, fun s w i hb hd => ?_⟩
  · rw [step_eq_exec hb (by rw [hin, List.head?_cons]) hd, consume_of_cons hin]
  · rw [step_eq_exec rfl rfl (decode_of_decodeTableWord hd), consume_withFetchWord 128 w hb]

/-- Settles O34: INIT takes UNINIT to RESET_READY, RESET takes that to PROGRAMMED, and neither is a violation there;
from PROGRAMMED none can come. -/
theorem bootOrderNeverSetsSeqErr : Obligations.BootOrderNeverSetsSeqErr := by
  intro is s hwf hb hl hs hin
  obtain ⟨a, ha, haseq, halife, hacmd, habusy, hain⟩ := step_encode (i := .init) rfl hb hin
  rw [hl] at haseq halife
  obtain ⟨b, hbstep, hbseq, hblife, hbcmd, hbbusy, hbin⟩ := step_encode (i := .reset) rfl habusy hain
  rw [halife] at hbseq
  obtain ⟨t, ht, htseq, htlife, htcmd, hend⟩ := runSteps_programmed hwf hbbusy hblife hbin
  have hrun : runSteps (is.length + 2) s = .next t :=
    (runSteps_succ _ ha).trans ((runSteps_succ _ hbstep).trans ht)
  refine ⟨t, hrun, ?_, htlife, htcmd.trans (hbcmd.trans hacmd), hend⟩
  rw [htseq, hbseq, haseq, hs]
  rfl

/-- Settles O44: the one stop is a busy block with a reserved number in OP_L, which the invariant's sequencer clause
excludes. -/
theorem blockNeverStops : Obligations.BlockNeverStops := by
  rintro s ⟨-, -, hseq, -⟩
  have hop (hb : s.busy = true) : (opOfCode s.opL).isSome = true := (hseq hb).1
  constructor
  · obtain ⟨-, hs⟩ | ⟨-, hb, hs⟩ | ⟨-, -, -, hs⟩ | ⟨-, -, w, why, -, -, hs⟩ | ⟨-, -, w, i, -, -, hs⟩ := step_cases s
    · exact ⟨_, hs⟩
    · exact ⟨finish s, hs.trans ((resume_eq_next_iff s _).mpr ⟨hop hb, rfl⟩)⟩
    · exact ⟨_, hs⟩
    · exact ⟨_, hs⟩
    · exact ⟨_, hs.trans (exec_finish_accept i _)⟩
  · obtain ⟨-, hs⟩ | ⟨-, hb, hnone, -⟩ | ⟨-, -, -, hs⟩ | ⟨-, -, -, hs⟩ | ⟨-, -, w, why, -, -, hs⟩ |
      ⟨-, -, w, i, -, -, hs⟩ := tickWith_cases Config.eventTicks s
    · exact ⟨_, hs⟩
    · simpa [hnone] using hop hb
    · exact ⟨_, hs⟩
    · exact ⟨_, hs⟩
    · exact ⟨_, hs⟩
    · exact ⟨_, hs⟩

end

/-! SUPPORT. The tick level of one command (rule R151): the sequencer by itself, tick after tick, then the host's
actions beside it, which a busy tick does not read (rules R31, R43). -/

namespace Sys2Proof.Machine

/-! The events IX has passed, and the count of ticks beside them. -/

/-- Emitting the first events of those to come leaves the others. -/
theorem remainingEvents_runEvents {es fs : List Event} {s : State} (h : remainingEvents s = es ++ fs) :
    remainingEvents (runEvents es s) = fs := by
  induction es generalizing s with
  | nil => exact h
  | cons e es ih => exact ih (remainingEvents_emit h)

/-- The command in progress after the first `k` of its events still to come. -/
def afterEvents (k : Nat) (s : State) : State := runEvents ((remainingEvents s).take k) s

theorem remainingEvents_afterEvents (k : Nat) (s : State) :
    remainingEvents (afterEvents k s) = (remainingEvents s).drop k :=
  remainingEvents_runEvents (List.take_append_drop k _).symm

theorem afterEvents_succ {k : Nat} {s : State} (hk : k < (remainingEvents s).length) :
    afterEvents (k + 1) s = emit (afterEvents k s) (remainingEvents s)[k] := by
  rw [afterEvents, List.take_add_one, List.getElem?_eq_getElem hk, runEvents_append]
  rfl

/-- The same block with its present event holding for `n` ticks. -/
def State.withHold (s : State) (n : Nat) : State := { s with hold := n }

/-- The next event does not depend on how long the present one would still hold. -/
theorem nextEvent_withHold (e n : Nat) (s : State) : nextEvent e (s.withHold n) = nextEvent e s := by
  have hr : remainingEvents (s.withHold n) = remainingEvents s := rfl
  rw [nextEvent, nextEvent, hr]
  split <;> rfl

section Sequencer
variable {e : Nat}

theorem nextEvent_afterEvents {k : Nat} {s : State} (hk : k < (remainingEvents s).length) :
    nextEvent e (afterEvents k s) = (afterEvents (k + 1) s).withHold e := by
  rw [nextEvent, remainingEvents_afterEvents, List.drop_eq_getElem_cons hk, afterEvents_succ hk]
  rfl

/-- After the last event the next tick completes the command (rules R28, R151). -/
theorem nextEvent_afterEvents_length (s : State) :
    nextEvent e (afterEvents (remainingEvents s).length s) = finish s := by
  rw [nextEvent, remainingEvents_afterEvents, List.drop_length, afterEvents, List.take_length]
  rfl

/-- An event that holds for more than `j` ticks holds through the next `j`. -/
theorem runTick_iterate_of_lt_hold {j : Nat} {s : State} (hj : j < s.hold) :
    (runTick e)^[j] s = s.withHold (s.hold - j) := by
  induction j with
  | zero => rfl
  | succ j ih =>
    have hmore : 1 < (s.withHold (s.hold - j)).hold := Nat.lt_sub_of_add_lt (Nat.add_comm 1 j ▸ hj)
    rw [Function.iterate_succ_apply', ih (Nat.lt_of_succ_lt hj), runTick, if_pos hmore, ← Nat.sub_sub]
    rfl

/-- An event holds for its `e` ticks, and the next one takes effect at the end of them (rule R151). -/
theorem runTick_iterate_hold (he : 1 ≤ e) (s : State) : (runTick e)^[e] (s.withHold e) = nextEvent e s := by
  obtain ⟨n, rfl⟩ := Nat.exists_eq_add_of_le' he
  have hlast : (runTick (n + 1))^[n] (s.withHold (n + 1)) = s.withHold (n + 1 - n) :=
    runTick_iterate_of_lt_hold n.lt_succ_self
  have hnext : runTick (n + 1) (s.withHold 1) = nextEvent (n + 1) (s.withHold 1) := if_neg (lt_irrefl 1)
  rw [Function.iterate_succ_apply', hlast, Nat.add_sub_cancel_left, hnext, nextEvent_withHold]

/-- `k * e` ticks after event 0 took effect event `k` does, or after the last event the command is complete. -/
theorem runTick_iterate_mul (he : 1 ≤ e) {k : Nat} {s : State} (hk : k ≤ (remainingEvents s).length) :
    (runTick e)^[k * e] (nextEvent e s) = nextEvent e (afterEvents k s) := by
  induction k with
  | zero => rw [Nat.zero_mul]; rfl
  | succ k ih =>
    rw [Nat.succ_mul, Nat.add_comm, Function.iterate_add_apply, ih (Nat.le_of_succ_le hk), nextEvent_afterEvents hk,
      runTick_iterate_hold he]

/-- Event `k` holds on each of its `e` ticks (rule R151). -/
theorem runTick_iterate_event (he : 1 ≤ e) {k j : Nat} {s : State} (hk : k < (remainingEvents s).length) (hj : j < e) :
    (runTick e)^[k * e + j] (nextEvent e s) = (afterEvents (k + 1) s).withHold (e - j) := by
  rw [Nat.add_comm, Function.iterate_add_apply, runTick_iterate_mul he hk.le, nextEvent_afterEvents hk]
  exact runTick_iterate_of_lt_hold hj

/-- Until its last event's ticks are over the command stays in progress, in its latch. -/
theorem runTick_iterate_busy_opL (he : 1 ≤ e) {m : Nat} {s : State} (hm : m < (remainingEvents s).length * e) :
    ((runTick e)^[m] (nextEvent e s)).busy = s.busy ∧ ((runTick e)^[m] (nextEvent e s)).opL = s.opL := by
  have hrun := runTick_iterate_event he (Nat.div_lt_of_lt_mul (Nat.mul_comm _ e ▸ hm)) (Nat.mod_lt m he)
  rw [Nat.div_add_mod'] at hrun
  rw [hrun]
  exact ⟨runEvents_busy .., runEvents_opL ..⟩

end Sequencer

/-! The host's actions over busy ticks. -/

/-- What the host still has to do after a busy tick: an idle tick has passed, anything else waits (rules R43, R54). -/
def afterBusyTick (ins : List HostInput) : List HostInput := if ins.head? = some .idle then ins.tail else ins

theorem passBusy_eq_withInputs (s : State) : passBusy s = s.withInputs (afterBusyTick s.inputs) := by
  unfold passBusy
  split
  · next h => rw [afterBusyTick, if_pos h]; rfl
  · next h => rw [afterBusyTick, if_neg h]; rfl

theorem afterBusyTick_subset (ins : List HostInput) : afterBusyTick ins ⊆ ins := by
  unfold afterBusyTick
  split
  · exact List.tail_subset ins
  · exact List.Subset.refl ins

theorem afterBusyTick_iterate_subset (m : Nat) (ins : List HostInput) : afterBusyTick^[m] ins ⊆ ins := by
  induction m with
  | zero => exact List.Subset.refl ins
  | succ m ih =>
    rw [Function.iterate_succ_apply']
    exact List.Subset.trans (afterBusyTick_subset _) ih

/-- A host whose next action is no idle tick still has everything to do. -/
theorem afterBusyTick_iterate_of_ne_idle (m : Nat) {ins : List HostInput} (h : ins.head? ≠ some .idle) :
    afterBusyTick^[m] ins = ins :=
  Function.iterate_fixed (show afterBusyTick ins = ins from if_neg h) m

theorem withInputs_eq_self {s : State} {ins : List HostInput} (h : s.inputs = ins) : s.withInputs ins = s := by
  rw [← h]
  rfl

section Ticks
variable {e : Nat} {s : State}

theorem ticksWith_succ_of_tickWith {t : State} (n : Nat) (h : tickWith e s = .next t) :
    ticksWith e (n + 1) s = ticksWith e n t := by
  rw [ticksWith, h]

theorem ticksWith_one {t : State} (h : tickWith e s = .next t) : ticksWith e 1 s = .next t :=
  ticksWith_succ_of_tickWith 0 h

/-- The tick after `n` ticks. -/
theorem ticksWith_succ_of_ticksWith {n : Nat} {t u : State} (h : ticksWith e n s = .next t)
    (ht : tickWith e t = .next u) : ticksWith e (n + 1) s = .next u := by
  induction n generalizing s with
  | zero =>
    cases h
    exact ticksWith_one ht
  | succ n ih =>
    cases hs : tickWith e s with
    | next r =>
      rw [ticksWith_succ_of_tickWith n hs] at h
      rw [ticksWith_succ_of_tickWith (n + 1) hs]
      exact ih h
    | fault r => rw [ticksWith, hs] at h; cases h
    | refused r => rw [ticksWith, hs] at h; cases h

theorem tickWith_busy (hb : s.busy = true) (hr : s.inputs.head? ≠ some .blockReset)
    (hop : (opOfCode s.opL).isSome = true) : tickWith e s = .next (passBusy (runTick e s)) := by
  obtain ⟨op, hop⟩ := Option.isSome_iff_exists.mp hop
  rw [tickWith, portEvent_busy hb hr, hop]

/-- Acceptance leaves event 0 in effect on the next tick (rule R151). -/
theorem tickWith_command {w : CmdWord} {i : Instr} (hb : s.busy = false) (hw : s.inputs.head? = some (.offer w))
    (hd : decode w = .command i) : tickWith e s = .next (nextEvent e (acceptInstr i (consume s))) := by
  rw [tickWith, portEvent_command hb hw hd]

end Ticks

/-! A command from its acceptance on. -/

section Command
variable {e : Nat} {s : State} {w : CmdWord} {rest : List HostInput} {i : Instr}

/-- Up to the completion of a command the ticks after its acceptance are the sequencer's own, and the host's list loses
the idle ticks that pass. -/
theorem ticksWith_iterate (he : 1 ≤ e) (hb : s.busy = false) (hin : s.inputs = .offer w :: rest)
    (hd : decode w = .command i) (hr : .blockReset ∉ rest) {m : Nat} (hm : m ≤ (commandEvents i).length * e) :
    ticksWith e (m + 1) s = .next
      (((runTick e)^[m] (nextEvent e (acceptInstr i (s.withInputs rest)))).withInputs (afterBusyTick^[m] rest)) := by
  induction m with
  | zero =>
    have hself : (acceptInstr i (s.withInputs rest)).withInputs rest = acceptInstr i (s.withInputs rest) :=
      withInputs_eq_self (acceptInstr_inputs ..)
    rw [ticksWith_one (tickWith_command hb (by rw [hin, List.head?_cons]) hd), consume_of_cons hin,
      Function.iterate_zero, Function.iterate_zero, id, id, ← nextEvent_withInputs, hself]
    rfl
  | succ m ih =>
    rw [← remainingEvents_acceptInstr i (s.withInputs rest)] at hm
    obtain ⟨hbusy, hopL⟩ := runTick_iterate_busy_opL he hm
    have hport : (afterBusyTick^[m] rest).head? ≠ some .blockReset := fun h =>
      hr (afterBusyTick_iterate_subset m rest (List.mem_of_head? h))
    refine ticksWith_succ_of_ticksWith (ih ?_) ((tickWith_busy ?_ hport ?_).trans ?_)
    · rw [← remainingEvents_acceptInstr i (s.withInputs rest)]
      exact Nat.le_of_succ_le hm
    · exact hbusy.trans (acceptInstr_busy ..)
    · rw [State.withInputs, hopL, acceptInstr_opL, opOfCode_opCode]
      rfl
    · rw [runTick_withInputs, passBusy_eq_withInputs, Function.iterate_succ_apply', Function.iterate_succ_apply']
      rfl

/-- On each of event `k`'s ticks the block is the one after its first `k + 1` events (rule R151). -/
theorem ticksWith_event (he : 1 ≤ e) (hb : s.busy = false) (hin : s.inputs = .offer w :: rest)
    (hd : decode w = .command i) (hr : .blockReset ∉ rest) {k j : Nat} (hk : k < (commandEvents i).length)
    (hj : j < e) :
    ticksWith e (1 + k * e + j) s = .next
      (((afterEvents (k + 1) (acceptInstr i (s.withInputs rest))).withHold (e - j)).withInputs
        (afterBusyTick^[k * e + j] rest)) := by
  have hm : k * e + j ≤ (commandEvents i).length * e :=
    calc k * e + j
      _ ≤ (k + 1) * e := by rw [Nat.succ_mul]; exact Nat.add_le_add_left hj.le _
      _ ≤ (commandEvents i).length * e := Nat.mul_le_mul_right e hk
  rw [Nat.add_assoc, Nat.add_comm 1, ticksWith_iterate he hb hin hd hr hm, runTick_iterate_event he _ hj]
  rwa [remainingEvents_acceptInstr]

/-- After the ticks of all its events the block is the one with the command run to its end (rules R28, R151). -/
theorem ticksWith_complete (he : 1 ≤ e) (hb : s.busy = false) (hin : s.inputs = .offer w :: rest)
    (hd : decode w = .command i) (hr : .blockReset ∉ rest) :
    ticksWith e ((commandEvents i).length * e + 1) s = .next
      ((finish (acceptInstr i (s.withInputs rest))).withInputs
        (afterBusyTick^[(commandEvents i).length * e] rest)) := by
  rw [ticksWith_iterate he hb hin hd hr le_rfl, ← remainingEvents_acceptInstr i (s.withInputs rest),
    runTick_iterate_mul he le_rfl, nextEvent_afterEvents_length]

end Command

/-- A command accepted, after the first `k` of its events: they have gone to the trace and the lines, the command is in
progress, and the flags are those of acceptance (rules R54, R114, R115). -/
theorem afterEvents_acceptInstr_fields (k : Nat) (i : Instr) (s : State) :
    (afterEvents k (acceptInstr i s)).trace = s.trace ++ (commandEvents i).take k ∧
      (afterEvents k (acceptInstr i s)).lines = writeLines s.lines ((commandEvents i).take k) ∧
      (afterEvents k (acceptInstr i s)).busy = true ∧
      (afterEvents k (acceptInstr i s)).life = nextLife i.op s.life ∧
      (afterEvents k (acceptInstr i s)).seqErr = (s.seqErr || violates i.op s.life) ∧
      (afterEvents k (acceptInstr i s)).cmdErr = s.cmdErr := by
  simp [afterEvents, remainingEvents_acceptInstr]

end Sys2Proof.Machine

section
open Sys2Proof Sys2Proof.Machine

/-- Settles O47: the ticks end in `finish` of the acceptance, which is what `exec` answers, beside what the host still
has to do. -/
theorem ticksRefineTheCommand : Obligations.TicksRefineTheCommand := by
  intro s w rest i hb hin hd hr
  have hinputs : (finish (acceptInstr i (s.withInputs rest))).inputs = rest :=
    (finish_inputs _).trans (acceptInstr_inputs ..)
  refine ⟨_, _, ticksWith_complete eventTicks_pos hb hin hd hr, exec_finish_accept i _,
    withInputs_eq_self hinputs, fun hidle => ?_⟩
  rw [afterBusyTick_iterate_of_ne_idle _ hidle]
  exact withInputs_eq_self hinputs

/-- Settles O48: on event k's ticks the block is the one after k + 1 events, at the end the completed command, and the
tick of an illegal word leaves a ready block ready. -/
theorem eventsTakeEffectOnTheirTicks : Obligations.EventsTakeEffectOnTheirTicks := by
  refine ⟨fun s w rest i hb hin hd hr => ?_, fun s w rest why hb hin hd => ?_⟩
  · intro life violation
    have hlife : nextLife i.op s.life = life := by
      cases i with
      | init => exact nextLife_init s.life
      | transmitBit | program | powerDown | reset => rfl
    have hviolation : violates i.op s.life = violation := by cases i <;> rfl
    rw [← hlife, ← hviolation]
    refine ⟨fun k j hk hj => ?_, ?_⟩
    · obtain ⟨htrace, hlines, hbusy, hflags⟩ := afterEvents_acceptInstr_fields (k + 1) i (s.withInputs rest)
      exact ⟨_, ticksWith_event eventTicks_pos hb hin hd hr hk hj, htrace, hlines, hbusy,
        congrArg not hbusy, hflags⟩
    · have hexec := exec_finish_accept i (s.withInputs rest)
      obtain ⟨hseq, hlife, hcmd, hbusy, -⟩ := exec_frame hexec
      exact ⟨_, ticksWith_complete eventTicks_pos hb hin hd hr, (exec_trace hexec :), (exec_lines hexec :), hbusy,
        congrArg not hbusy, hlife, hseq, hcmd⟩
  · refine ⟨_, tick_illegal hb (by rw [hin, List.head?_cons]) hd, ?_⟩
    exact congrArg not hb

end

/-! SUPPORT. Decoding a written-out word (rules R67, R71, R83): the encoding of an instruction, or one of the two kinds of
illegal word with its cause. -/

namespace Sys2Proof

/-- A literal word found to be an instruction's encoding decodes to that instruction. -/
theorem decode_of_encode_eq {i : Instr} {w : CmdWord} (hw : encode i = w) (hi : i.wellFormed = true) :
    decode w = .command i :=
  hw ▸ decode_encode hi

theorem decode_of_wordRsv_ne_zero {w : CmdWord} (hrsv : wordRsv w ≠ 0) : decode w = .illegal .reservedBits :=
  if_pos hrsv

theorem decode_of_opOfCode_eq_none {w : CmdWord} (hrsv : wordRsv w = 0) (hop : opOfCode (wordOp w) = none) :
    decode w = .illegal .reservedOp := by
  rw [decode, if_neg (not_not_intro hrsv), hop]

end Sys2Proof

section
open Sys2Proof

/-- Settles O11: each legal word is the encoding of its well-formed command, which the decoder reads back; of the illegal
ones, the first has RSV set, and the second has RSV = 0 and a number in OP that names no operation. -/
theorem writtenWordsDecode : Obligations.WrittenWordsDecode := by
  refine ⟨decode_of_encode_eq ?transmitBit rfl, decode_of_encode_eq ?program ?programRange,
    decode_of_encode_eq ?programNegative ?programNegativeRange, decode_of_encode_eq ?powerDown rfl,
    decode_of_encode_eq ?reset rfl, decode_of_encode_eq ?init rfl, decode_of_wordRsv_ne_zero ?reservedBits,
    decode_of_opOfCode_eq_none ?noReservedBits ?reservedOp⟩
  all_goals decide

end
